-- ==== Sys2Proof/Word.lean ====
section
/-! DEFINITION. The widths of the 832: bytes, sample values, superframe numbers, counters and identities. -/

namespace Sys2Proof

/-- One byte of a frame, a message or a local control port transfer. -/
abbrev Byte := BitVec 8

/-- A 24-bit two's-complement sample value, constant value, ramp value or holding value. -/
abbrev Sample := BitVec 24

/-- A superframe number, 0 to 16,777,215, with its wrap. -/
abbrev Superframe := BitVec 24

/-- A frame index, 0 to 63. -/
abbrev FrameIndex := BitVec 6

/-- A 16-bit event counter. -/
abbrev Counter := BitVec 16

/-- The 48-bit factory identity of a node (R166). -/
abbrev Identity := BitVec 48

end Sys2Proof
end

