-- ==== Sys2Proof/Syntax.lean ====
section
/-! DEFINITION. The commands of the 832: one constructor for each row of spec/opcode_table.json. -/

namespace Sys2Proof

/-- The two trunk ports of a node. -/
inductive TrunkPort where
  | headSide
  | tailSide
  deriving DecidableEq, Repr

/-- The bytes of one trunk frame as they stand on the line: header (7), service chunk (9), 32 slot words (4 each). -/
abbrev WireFrame := Vector Byte 144

/-- The nine local commands (R179). -/
inductive LocalCommand where
  | status
  | readOutward
  | postInward
  | withdrawInward
  | readFlags
  | clearFlags
  | setMask
  | setLock
  | clearLock
  deriving DecidableEq, Repr

/-- What LSEL does around the bytes of a stretch of one transaction (R178): whether it is asserted before the first byte,
and whether it is released after the last. -/
structure LselEdges where
  asserted : Bool
  released : Bool
  deriving DecidableEq, Repr

/-- A whole transaction in one stretch. -/
def LselEdges.whole : LselEdges := { asserted := true, released := true }

/-- A stretch that begins a transaction, and leaves it going on. -/
def LselEdges.opening : LselEdges := { asserted := true, released := false }

/-- A stretch inside a transaction. -/
def LselEdges.inside : LselEdges := { asserted := false, released := false }

/-- The last stretch of a transaction. -/
def LselEdges.closing : LselEdges := { asserted := false, released := true }

/-- The steps of the part. A request row has no operand of its own: its operands lie in the request that stands at
the head of the request queue (R87, R92; notes/assumptions/6.md). The row of a local command carries a stretch of one
transaction: the bytes shifted in on LDI, the command byte first, and what LSEL does around them (R178). A transaction that
another happening falls into is given in several stretches (notes/assumptions/12.md). Written without operands, the row of
a command that has no argument is the whole transaction of its command byte. -/
inductive Instr where
  /-- DEVICE_RESET: power-on or assertion of the RESET pin (R21). -/
  | deviceReset
  /-- HEAD_SIDE_HEADER_ARRIVAL: an outbound frame with its header arrives at the head-side port (R9). -/
  | headSideHeaderArrival (wire : WireFrame)
  /-- TAIL_SIDE_HEADER_ARRIVAL: an inbound frame with its header arrives at the tail-side port (R16). -/
  | tailSideHeaderArrival (wire : WireFrame)
  /-- FRAME_WATCHDOG_RUNS_OUT: a port's frame watchdog runs out, an absent header (R6). -/
  | frameWatchdogRunsOut (port : TrunkPort)
  /-- FREE_RUN_TIMER_RUNS_OUT: the free-run timer runs out (R4). -/
  | freeRunTimerRunsOut
  /-- INBOUND_FRAME_SENT_REPORT: the last bit of the oldest inbound frame in the head-side port has left (R14). -/
  | inboundFrameSentReport
  /-- CONVERTER_WORD_RECEIVED: the last bit of the input word of a channel has been received on CDI (R69;
  notes/assumptions/10.md). -/
  | converterWordReceived (channel : Fin 8) (word : Sample)
  /-- ARM_CHANGEOVER (R109). -/
  | armChangeover
  /-- ASSIGN (R112). -/
  | assign
  /-- CANCEL_CHANGEOVER (R115). -/
  | cancelChangeover
  /-- READ_CHANNELS (R116). -/
  | readChannels
  /-- READ_COUNTERS (R117). -/
  | readCounters
  /-- READ_PLAN (R120). -/
  | readPlan
  /-- READ_STATUS (R122). -/
  | readStatus
  /-- RELAY_OUT (R124). -/
  | relayOut
  /-- RELEASE (R126). -/
  | release
  /-- RESET_NODE (R103). -/
  | resetNode
  /-- ROLL_CALL (R128). -/
  | rollCall
  /-- WRITE_CHANNELS (R131). -/
  | writeChannels
  /-- WRITE_PLAN (R133). -/
  | writePlan
  /-- WRITE_SETTINGS (R135). -/
  | writeSettings
  /-- UNKNOWN_KIND_REQUEST (R97). -/
  | unknownKindRequest
  /-- LAST_REPLY_ANSWER (R102). -/
  | lastReplyAnswer
  /-- NODE_RESET: the node reset is applied (R105, R106). -/
  | nodeReset
  /-- NOTICE_BUILD (R153). -/
  | noticeBuild
  /-- RELAY_IN_QUEUING (R172). -/
  | relayInQueuing
  /-- RELAY_EXPIRY: the relay unit's boundary action on the outward box (R169). -/
  | relayExpiry
  /-- STATUS: a stretch of a transaction whose command is STATUS (R178, R180). -/
  | status (bytes : List Byte := [0x01]) (edges : LselEdges := .whole)
  /-- READ_OUTWARD: the same for READ OUTWARD (R170). -/
  | readOutward (bytes : List Byte := [0x02]) (edges : LselEdges := .whole)
  /-- POST_INWARD: the same for POST INWARD (R171). -/
  | postInward (bytes : List Byte) (edges : LselEdges)
  /-- WITHDRAW_INWARD: the same for WITHDRAW INWARD (R174). -/
  | withdrawInward (bytes : List Byte := [0x04]) (edges : LselEdges := .whole)
  /-- READ_FLAGS: the same for READ FLAGS (R182). -/
  | readFlags (bytes : List Byte := [0x05]) (edges : LselEdges := .whole)
  /-- CLEAR_FLAGS: the same for CLEAR FLAGS (R182). -/
  | clearFlags (bytes : List Byte) (edges : LselEdges := .whole)
  /-- SET_MASK: the same for SET MASK (R183). -/
  | setMask (bytes : List Byte) (edges : LselEdges := .whole)
  /-- SET_LOCK: the same for SET LOCK (R184). -/
  | setLock (bytes : List Byte := [0x08]) (edges : LselEdges := .whole)
  /-- CLEAR_LOCK: the same for CLEAR LOCK (R184). -/
  | clearLock (bytes : List Byte := [0x09]) (edges : LselEdges := .whole)
  /-- UNKNOWN_COMMAND: the same for a command byte that names no local command (R179). -/
  | unknownCommand (bytes : List Byte) (edges : LselEdges := .whole)
  deriving DecidableEq, Repr

end Sys2Proof
end

