-- ==== Sys2Proof/Decode.lean ====
section
/-! DEFINITION. What a word spells by the bits of spec/opcode_table.json, and what a byte of the local control port spells
by the command codes of Chapter 11. -/

namespace Sys2Proof

/-- No row of the table gives bits ("fields" is empty in all 37 rows), so no word spells a command:
notes/assumptions/21.md. -/
def decodeTableWord (_nbits _w : Nat) : Option Instr :=
  none

/-- The command bytes 01H to 09H (Chapter 11, "Local Control Port Codes"). -/
def LocalCommand.code : LocalCommand → Byte
  | .status => 0x01
  | .readOutward => 0x02
  | .postInward => 0x03
  | .withdrawInward => 0x04
  | .readFlags => 0x05
  | .clearFlags => 0x06
  | .setMask => 0x07
  | .setLock => 0x08
  | .clearLock => 0x09

/-- Every local command, in the order of the codes. -/
def LocalCommand.all : List LocalCommand :=
  [.status, .readOutward, .postInward, .withdrawInward, .readFlags, .clearFlags, .setMask, .setLock, .clearLock]

/-- The local command that a command byte names; 00H and 0AH to FFH name none and are UNKNOWN (R179, R188). -/
def readLocalCommand (code : Byte) : Option LocalCommand :=
  LocalCommand.all.find? fun c => c.code == code

/-- R171, R178, R179: whether the argument bytes shifted in are all that the command calls for; none stands for a command
byte that names no command. POST INWARD with a length outside 1 to 120 is taken at its length byte. -/
def argumentsComplete (command : Option LocalCommand) (arguments : List Byte) : Bool :=
  match command with
  | some .postInward =>
    match arguments with
    | [] => false
    | length :: payload =>
      if 1 ≤ length.toNat && length.toNat ≤ 120 then length.toNat ≤ payload.length else true
  | some .clearFlags | some .setMask => 1 ≤ arguments.length
  | some .status | some .readOutward | some .withdrawInward | some .readFlags => true
  | some .setLock | some .clearLock | none => true

end Sys2Proof
end

