-- ==== Sys2Proof/Machine/Blocks.lean ====
section
/-! DEFINITION. The types of the machine's state, block by block as 00_scope.md lists the blocks of the 832. -/

namespace Sys2Proof.Machine

/-! ### Frames (Chapters 1 and 11) -/

/-- The number of a frame: its superframe number and its frame index. -/
structure FrameNo where
  superframe : Superframe
  index : FrameIndex
  deriving DecidableEq, Repr

/-- A service chunk: a tag byte, kept as received because an outbound chunk is forwarded unchanged (R78), and 8 content
bytes. -/
structure Chunk where
  tag : Byte
  content : Vector Byte 8
  deriving DecidableEq, Repr

/-- The five tags (R77). -/
inductive Tag where
  | idle
  | first
  | middle
  | last
  | only
  deriving DecidableEq, Repr

/-- A slot: `none` is vacant, whose value is zero in every respect (R22, R23), `some v` is occupied with value v. -/
abbrev Slot := Option Sample

/-- The 32 slots of a frame. -/
abbrev Slots := Vector Slot 32

/-- A frame as the node handles it. `spare` is the second flag position of the header, carried on in forwarded frames
and zero in frames that the node builds (R1, R189). -/
structure Frame where
  number : FrameNo
  headLost : Bool
  spare : Bool
  chunk : Chunk
  slots : Slots
  deriving DecidableEq, Repr

/-! ### Ports (Chapter 1) -/

/-- The lock state of a port (R6 to R8). -/
inductive LockState where
  | search
  | confirm
  | locked
  deriving DecidableEq, Repr

/-- One port's lock machine with its two counters (R2, R6, R8, R11, R17). -/
structure LockPort where
  lock : LockState
  missCount : Nat
  expected : Option FrameNo
  watchdog : Bool
  misses : Counter
  losses : Counter
  deriving DecidableEq, Repr

/-- Superframe counter and frame index, and whether the free-run timer runs (R3, R4). -/
structure FrameTiming where
  number : FrameNo
  freeRun : Bool
  deriving DecidableEq, Repr

/-! ### Plan store (Chapters 2 and 3) -/

/-- The five slot actions (R24). -/
inductive SlotAction where
  | pass
  | copy
  | take
  | fill
  | force
  deriving DecidableEq, Repr

/-- A plan entry: an action and a channel number 0 to 7 (R24). -/
structure PlanEntry where
  action : SlotAction
  channel : Fin 8
  deriving DecidableEq, Repr

/-- A plan: one entry for each slot of one direction. -/
abbrev Plan := Vector PlanEntry 32

/-- The two directions of the trunk. -/
inductive Direction where
  | outbound
  | inbound
  deriving DecidableEq, Repr

/-- A bank: an outbound and an inbound plan. -/
structure Bank where
  outbound : Plan
  inbound : Plan
  deriving DecidableEq, Repr

/-- The letters of the two banks. -/
inductive BankName where
  | a
  | b
  deriving DecidableEq, Repr

/-- The changeover state (R46). -/
inductive ChangeoverState where
  | idle
  | armed
  | split
  | refresh
  deriving DecidableEq, Repr

/-- The applied superframe with its late flag, which are present together (R47). -/
structure Applied where
  superframe : Superframe
  late : Bool
  deriving DecidableEq, Repr

/-- The plan store (R36, R46, R47, R48). -/
structure PlanStore where
  bankA : Bank
  bankB : Bank
  live : BankName
  state : ChangeoverState
  target : Option Superframe
  applied : Option Applied
  oldBank : Option BankName
  lateChangeovers : Counter
  deriving DecidableEq, Repr

/-! ### Channel unit (Chapter 4) -/

/-- Where an input takes its sample (R63). -/
inductive InputSource where
  | port
  | constant
  | ramp
  deriving DecidableEq, Repr

/-- What an enabled, unwritten output presents (R63, R71). -/
inductive VacancyPolicy where
  | hold
  | zero
  deriving DecidableEq, Repr

/-- One input channel: its table entry (R63), running state (R64), collision counter (R33) and input word register
(R69). -/
structure InputChannel where
  enabled : Bool
  source : InputSource
  constant : Sample
  sample : Sample
  ramp : Sample
  collisions : Counter
  word : Sample
  deriving DecidableEq, Repr

/-- One output channel: its table entry (R63), running state (R64) and vacancy counter (R33). -/
structure OutputChannel where
  enabled : Bool
  policy : VacancyPolicy
  holding : Sample
  written : Bool
  vacancies : Counter
  deriving DecidableEq, Repr

/-- A converter frame in progress: the eight words that the exchange presented, shifted out on CDO with O0 first, and the
channel whose input word is being shifted in on CDI, I0 first (R69). -/
structure ConverterFrame where
  words : Vector Sample 8
  next : Fin 8
  deriving DecidableEq, Repr

/-- The channel unit. -/
structure ChannelUnit where
  inputs : Vector InputChannel 8
  outputs : Vector OutputChannel 8
  converterFrame : Option ConverterFrame
  deriving DecidableEq, Repr

/-! ### Messages and the service receiver (Chapter 5) -/

/-- A message: header fields, payload and the check that it carries. The payload length byte is the payload's length. -/
structure Message where
  destination : Byte
  source : Byte
  kind : Byte
  sequence : Byte
  payload : List Byte
  check : BitVec 16
  deriving DecidableEq, Repr

/-- The message assembler (R79): ASSEMBLING holds the content bytes received, the chunks received and the expected
chunk count. -/
inductive Assembler where
  | idle
  | assembling (buffer : List Byte) (received expected : Nat)
  deriving DecidableEq, Repr

/-- How a request was addressed, as recorded at acceptance (R84, R85). -/
inductive Addressing where
  | individual
  | broadcast
  deriving DecidableEq, Repr

/-- A request as it waits in the request queue (R85). -/
structure Request where
  addressing : Addressing
  kind : Byte
  sequence : Byte
  payload : List Byte
  deriving DecidableEq, Repr

/-- The service receiver (R79, R83, R87). The oldest request stands first. -/
structure ServiceReceiver where
  assembler : Assembler
  requests : List Request
  sequenceErrors : Counter
  lengthErrors : Counter
  checkErrors : Counter
  requestsDropped : Counter
  deriving DecidableEq, Repr

/-! ### Request executor (Chapter 6) -/

/-- The executor state (R92). -/
inductive ExecutorState where
  | ready
  | waiting
  | resetWait
  deriving DecidableEq, Repr

/-- The entry of the last-reply store (R101). -/
structure StoredReply where
  kind : Byte
  sequence : Byte
  reply : Message
  deriving DecidableEq, Repr

/-- The request executor with the node address and the node settings (R92, R101, R107, R165). Bit k of `noticeEnable`
stands for notice kind k. -/
structure Executor where
  state : ExecutorState
  address : Byte
  lastReply : Option StoredReply
  relayTimeout : Byte
  noticeEnable : BitVec 10
  deriving DecidableEq, Repr

/-! ### Inbound service unit (Chapter 8) -/

/-- A pass-through slot (R137). -/
inductive PassSlot where
  | free
  | receiving (bytes : List Byte)
  | complete (message : Message)
  | sending (message : Message)
  deriving DecidableEq, Repr

/-- The inbound receiver (R138). -/
inductive InboundReceiver where
  | idle
  | receiving (slot : Fin 2) (received expected : Nat)
  | discarding
  deriving DecidableEq, Repr

/-- What the end of an outgoing message's emission means to another block: nothing, the end of an inward relay message
(R173), or the end of a RESET NODE's recorded reply (R103, R104). -/
inductive OutLink where
  | plain
  | inwardBox
  | resetReply
  deriving DecidableEq, Repr

/-- An entry of the outgoing queue (R144). -/
structure OutEntry where
  message : Message
  link : OutLink
  deriving DecidableEq, Repr

/-- The two sources of emissions as the arbiter's last winner names them: PASS and LOCAL (R146). -/
inductive Winner where
  | passThrough
  | ownQueue
  deriving DecidableEq, Repr

/-- What is being sent: a pass-through slot in SENDING, or the oldest outgoing-queue entry (R146). -/
inductive EmissionSource where
  | slot (k : Fin 2)
  | ownQueue
  deriving DecidableEq, Repr

/-- An emission in progress: its source, the chunks placed in frames, and the chunks reported sent (R146, R149). -/
structure Emission where
  source : EmissionSource
  placed : Nat
  sent : Nat
  deriving DecidableEq, Repr

/-- The inbound service unit. `order` lists the COMPLETE slots, the first completed first (R137); the oldest outgoing
message stands first in `queue`. -/
structure InboundUnit where
  slots : Vector PassSlot 2
  order : List (Fin 2)
  rx : InboundReceiver
  queue : List OutEntry
  emission : Option Emission
  lastWinner : Winner
  noticeNumber : Byte
  checkErrors : Counter
  passDropped : Counter
  deriving DecidableEq, Repr

/-! ### Notice unit (Chapter 8) -/

/-- Detail of REQUEST_DROPPED (R88). -/
structure DroppedRequest where
  kind : Byte
  sequence : Byte
  addressing : Addressing
  deriving DecidableEq, Repr

/-- Detail of PASS_DROPPED (R139). -/
structure DroppedPass where
  source : Byte
  kind : Byte
  sequence : Byte
  deriving DecidableEq, Repr

/-- Detail of RELAY_EXPIRED (R169). -/
structure ExpiredRelay where
  superframe : Superframe
  length : Byte
  deriving DecidableEq, Repr

/-- The pending notice set: a kind is pending when its field is present, and the field is its detail (R150). Bit k of
the COLLISION detail stands for input Ik (R32). -/
structure PendingNotices where
  headLost : Option Superframe
  headRestored : Option Superframe
  tailLost : Option Superframe
  tailRestored : Option Superframe
  changeoverDone : Option Applied
  collision : Option Byte
  requestDropped : Option DroppedRequest
  passDropped : Option DroppedPass
  relayExpired : Option ExpiredRelay
  relayDelivered : Option Byte
  deriving DecidableEq, Repr

/-! ### Relay unit and local control port (Chapter 10) -/

/-- A HELD outward box: payload, and countdown in superframe boundaries, absent for no expiry (R169). -/
structure OutwardMessage where
  payload : List Byte
  countdown : Option Byte
  deriving DecidableEq, Repr

/-- The inward relay box (R171). -/
inductive InwardBox where
  | empty
  | posted (payload : List Byte)
  | queued (payload : List Byte)
  | sending (payload : List Byte)
  deriving DecidableEq, Repr

/-- The relay unit; `outward` absent is EMPTY (R168, R172). -/
structure RelayUnit where
  outward : Option OutwardMessage
  inward : InwardBox
  relayInNumber : Byte
  deriving DecidableEq, Repr

/-- A transaction of the local control port (R178, R185). -/
inductive Transaction where
  /-- LSEL is released: no transaction. -/
  | closed
  /-- LSEL is asserted and the command is not taken; the bytes shifted in so far, the command byte first. -/
  | collecting (bytes : List Byte)
  /-- The command with this command byte has been taken; the bytes of its response that LDO has not yet carried. -/
  | responding (code : Byte) (rest : List Byte)
  /-- A device reset has ended the transaction, and LSEL has not been released since. -/
  | barred
  deriving DecidableEq, Repr

/-- The local control port: flags, mask, channel lock, and the transaction in progress (R178, R181, R183, R184). -/
structure LocalPort where
  flags : BitVec 7
  mask : BitVec 7
  channelLock : Bool
  transaction : Transaction
  deriving DecidableEq, Repr

/-- What the converter port puts out: the mark on CFS that starts a converter frame, or one output word, shifted out whole on
CDO (R69). -/
inductive ConverterSignal where
  | frameStart
  | word (sample : Sample)
  deriving DecidableEq, Repr

/-- The lines as an observer sees them since the last device reset: frames sent through the tail-side port, inbound frames
handed to the head-side port and not yet reported, inbound frames whose last bit has left (R14, R15), what the converter port
has put out, the CFS marks among the output words (R69), and the byte that LDO carried with each byte shifted in on LDI (R178). The oldest stands first in
each list. All but `headTx` are the model's own record (notes/assumptions/4.md). -/
structure Wires where
  tailSent : List Frame
  headTx : List Frame
  headSent : List Frame
  converterSent : List ConverterSignal
  ldo : List Byte
  deriving DecidableEq, Repr

end Sys2Proof.Machine
end

