-- ==== Sys2Proof/Machine/Checks.lean ====
section
/-! DEFINITION. The two cyclic checks: the 8-bit header check (R189) and the 16-bit message check (R82, R191). -/

namespace Sys2Proof.Machine

/-- The bits of a byte in the order both checks take them, most significant first. -/
def byteBits (b : Byte) : List Bool :=
  [b.getLsbD 7, b.getLsbD 6, b.getLsbD 5, b.getLsbD 4, b.getLsbD 3, b.getLsbD 2, b.getLsbD 1, b.getLsbD 0]

/-- R189: one bit taken by the header check, generator x^8 + x^2 + x + 1. -/
def headerCheckBit (register : BitVec 8) (bit : Bool) : BitVec 8 :=
  if Bool.xor register.msb bit then (register <<< 1) ^^^ 0x07#8 else register <<< 1

/-- R189: the header check over bytes in order, from a register of 00H. -/
def headerCheck (bytes : List Byte) : BitVec 8 :=
  (bytes.flatMap byteBits).foldl headerCheckBit 0x00#8

/-- R191: one bit taken by the message check, generator x^16 + x^12 + x^5 + 1. -/
def messageCheckBit (register : BitVec 16) (bit : Bool) : BitVec 16 :=
  if Bool.xor register.msb bit then (register <<< 1) ^^^ 0x1021#16 else register <<< 1

/-- R191: the message check over bytes in order, from a register of FFFFH. -/
def messageCheck (bytes : List Byte) : BitVec 16 :=
  (bytes.flatMap byteBits).foldl messageCheckBit 0xFFFF#16

end Sys2Proof.Machine
end

