-- ==== Sys2Proof/Machine/Operands.lean ====
section
/-! DEFINITION. The layouts and codes of Chapter 11 (R188): the trunk frame, the header, the slot word, the chunk, the
plan entry, the channel entry, and the codes of named values. What is read and what is built use the same layouts. -/

namespace Sys2Proof.Machine

/-! ### Fields of several bytes, most significant byte first -/

/-- The byte at a position of a byte list; a position past the end reads 00H. -/
def byteAt (bytes : List Byte) (i : Nat) : Byte :=
  bytes.getD i 0

/-- A number carried in one byte. -/
def byteOf (n : Nat) : Byte :=
  BitVec.ofNat 8 n

/-- A set-or-clear byte (R193). -/
def flagByte (b : Bool) : Byte :=
  if b then 0x01 else 0x00

/-- A 16-bit value in two bytes. -/
def twoBytes (x : BitVec 16) : List Byte :=
  [x.extractLsb' 8 8, x.extractLsb' 0 8]

/-- A 24-bit value in three bytes. -/
def threeBytes (x : BitVec 24) : List Byte :=
  [x.extractLsb' 16 8, x.extractLsb' 8 8, x.extractLsb' 0 8]

/-- A 48-bit identity in six bytes. -/
def sixBytes (x : Identity) : List Byte :=
  [x.extractLsb' 40 8, x.extractLsb' 32 8, x.extractLsb' 24 8, x.extractLsb' 16 8, x.extractLsb' 8 8,
    x.extractLsb' 0 8]

/-- The 16-bit value read from two bytes. -/
def readTwo (hi lo : Byte) : BitVec 16 :=
  hi ++ lo

/-- The 24-bit value read from three bytes. -/
def readThree (b2 b1 b0 : Byte) : BitVec 24 :=
  b2 ++ b1 ++ b0

/-- The 24-bit value at a position of a byte list. -/
def threeAt (bytes : List Byte) (i : Nat) : BitVec 24 :=
  readThree (byteAt bytes i) (byteAt bytes (i + 1)) (byteAt bytes (i + 2))

/-- The 48-bit identity at a position of a byte list. -/
def identityAt (bytes : List Byte) (i : Nat) : Identity :=
  threeAt bytes i ++ threeAt bytes (i + 3)

/-! ### Tags and chunks -/

/-- The tag that a tag byte is read as; 05H to FFH name no tag and are read as IDLE (R77, R190). -/
def readTag (tag : Byte) : Tag :=
  if tag = 0x01 then .first
  else if tag = 0x02 then .middle
  else if tag = 0x03 then .last
  else if tag = 0x04 then .only
  else .idle

/-- The code of a tag. -/
def Tag.code : Tag → Byte
  | .idle => 0x00
  | .first => 0x01
  | .middle => 0x02
  | .last => 0x03
  | .only => 0x04

/-- The IDLE chunk that the node builds, with content bytes 00H (R190). -/
def Chunk.idle : Chunk :=
  { tag := Tag.idle.code, content := Vector.replicate 8 0 }

/-- The payload length byte that the first chunk of a message carries, at byte position 4. -/
def Chunk.announcedLength (c : Chunk) : Nat :=
  c.content[4].toNat

/-- The chunk count of a message with payload length L: ceil((7 + L) / 8) (R77). -/
def chunkCount (payloadLength : Nat) : Nat :=
  (7 + payloadLength + 7) / 8

/-! ### The trunk frame -/

/-- Every slot vacant. -/
def vacantSlots : Slots :=
  Vector.replicate 32 none

/-- Byte 5 of the header: HEAD_LOST flag, second flag position, frame index. -/
def headerFlags (f : Frame) : Byte :=
  BitVec.ofBool f.headLost ++ BitVec.ofBool f.spare ++ f.number.index

/-- Header bytes 0 to 5. -/
def headerBody (f : Frame) : List Byte :=
  [0xE4, 0xB2] ++ threeBytes f.number.superframe ++ [headerFlags f]

/-- The slot word of a slot; spare positions and the value of a vacant slot are zero (R23, R190). -/
def slotWord : Slot → List Byte
  | none => [0x00, 0x00, 0x00, 0x00]
  | some v => 0x80 :: threeBytes v

/-- Byte i of a frame that the node sends: 7 header bytes with the check computed afresh (R189), the chunk, and the slot
words with slot 0 first. -/
def frameByte (f : Frame) (i : Nat) : Byte :=
  if i < 7 then byteAt (headerBody f ++ [headerCheck (headerBody f)]) i
  else if i < 16 then byteAt (f.chunk.tag :: f.chunk.content.toList) (i - 7)
  else byteAt (slotWord ((f.slots[(i - 16) / 4]?).getD none)) ((i - 16) % 4)

/-- The 144 bytes of a frame on the line. -/
def Frame.toWire (f : Frame) : WireFrame :=
  Vector.ofFn fun i => frameByte f i.val

/-- A header is good when its sync pattern is E4B2H and the check over bytes 0 to 5 equals byte 6 (R1, R189). -/
def goodHeader (w : WireFrame) : Bool :=
  w[0] == 0xE4 && w[1] == 0xB2 && headerCheck [w[0], w[1], w[2], w[3], w[4], w[5]] == w[6]

/-- A slot word as it is read: spare positions are ignored, and a clear marker is a vacant slot whatever the value
bytes hold (R22, R190). -/
def readSlot (b0 b1 b2 b3 : Byte) : Slot :=
  if b0.getLsbD 7 then some (readThree b1 b2 b3) else none

/-- The frame that 144 bytes carry, its header taken as good. -/
def readFrame (w : WireFrame) : Frame :=
  { number := { superframe := readThree w[2] w[3] w[4], index := w[5].extractLsb' 0 6 }
    headLost := w[5].getLsbD 7
    spare := w[5].getLsbD 6
    chunk := { tag := w[7], content := Vector.ofFn fun j => w[8 + j.val] }
    slots := Vector.ofFn fun k =>
      readSlot w[16 + 4 * k.val] w[17 + 4 * k.val] w[18 + 4 * k.val] w[19 + 4 * k.val] }

/-- What arrives with a header: the whole frame when the header is good, and nothing when it is bad (R1). -/
def receivedFrame (w : WireFrame) : Option Frame :=
  if goodHeader w then some (readFrame w) else none

/-- A substitute frame, outbound or inbound: HEAD_LOST clear, every slot vacant, an IDLE chunk (R10, R16). -/
def substituteFrame (n : FrameNo) : Frame :=
  { number := n, headLost := false, spare := false, chunk := Chunk.idle, slots := vacantSlots }

/-- A free-run frame: HEAD_LOST set, every slot vacant, an IDLE chunk (R4). -/
def freeRunFrame (n : FrameNo) : Frame :=
  { number := n, headLost := true, spare := false, chunk := Chunk.idle, slots := vacantSlots }

/-- An originated inbound frame before the arbiter gives it its chunk (R18). -/
def originatedFrame (n : FrameNo) : Frame :=
  substituteFrame n

/-! ### Codes of named values -/

/-- Lock state codes. -/
def LockState.code : LockState → Byte
  | .search => 0x00
  | .confirm => 0x01
  | .locked => 0x02

/-- Changeover state codes. -/
def ChangeoverState.code : ChangeoverState → Byte
  | .idle => 0x00
  | .armed => 0x01
  | .split => 0x02
  | .refresh => 0x03

/-- Bank codes. -/
def BankName.code : BankName → Byte
  | .a => 0x00
  | .b => 0x01

/-- The bank that a code names; 02H to FFH name none (R192). -/
def readBank (code : Byte) : Option BankName :=
  if code = 0x00 then some .a else if code = 0x01 then some .b else none

/-- Direction codes. -/
def Direction.code : Direction → Byte
  | .outbound => 0x00
  | .inbound => 0x01

/-- The direction that a code names; 02H to FFH name none (R192). -/
def readDirection (code : Byte) : Option Direction :=
  if code = 0x00 then some .outbound else if code = 0x01 then some .inbound else none

/-- Addressing codes. -/
def Addressing.code : Addressing → Byte
  | .individual => 0x00
  | .broadcast => 0x01

/-- Inward box state codes. -/
def InwardBox.code : InwardBox → Byte
  | .empty => 0x00
  | .posted _ => 0x01
  | .queued _ => 0x02
  | .sending _ => 0x03

/-- Plan action codes, bits 6 to 4 of a plan entry. -/
def SlotAction.code : SlotAction → BitVec 3
  | .pass => 0
  | .copy => 1
  | .take => 2
  | .fill => 3
  | .force => 4

/-- The action that three bits name; 5 to 7 name none (R42, R192). -/
def readAction (code : BitVec 3) : Option SlotAction :=
  if code = 0 then some .pass
  else if code = 1 then some .copy
  else if code = 2 then some .take
  else if code = 3 then some .fill
  else if code = 4 then some .force
  else none

/-- A plan entry byte: bits 6 to 4 the action, bits 2 to 0 the channel, bits 7 and 3 zero. -/
def PlanEntry.byte (e : PlanEntry) : Byte :=
  0#1 ++ e.action.code ++ 0#1 ++ (BitVec.ofNat 3 e.channel.val)

/-- A plan entry as it is written: the spare positions are ignored, and an action of 5 to 7 makes it invalid (R42,
R192). -/
def readPlanEntry (b : Byte) : Option PlanEntry :=
  (readAction (b.extractLsb' 4 3)).map fun action => { action := action, channel := (b.extractLsb' 0 3).toFin }

/-- Input source codes. -/
def InputSource.code : InputSource → BitVec 2
  | .port => 0
  | .constant => 1
  | .ramp => 2

/-- The source that two bits name; 3 names none (R192). -/
def readSource (code : BitVec 2) : Option InputSource :=
  if code = 0 then some .port else if code = 1 then some .constant else if code = 2 then some .ramp else none

/-- Vacancy policy codes. -/
def VacancyPolicy.code : VacancyPolicy → BitVec 2
  | .hold => 0
  | .zero => 1

/-- The policy that two bits name; 2 and 3 name none (R192). -/
def readPolicy (code : BitVec 2) : Option VacancyPolicy :=
  if code = 0 then some .hold else if code = 1 then some .zero else none

/-- Byte 1 of a channel entry: bit 7 enabled, bits 6 to 2 zero, bits 1 and 0 the source or policy. -/
def channelSettings (enabled : Bool) (code : BitVec 2) : Byte :=
  BitVec.ofBool enabled ++ 0#5 ++ code

/-- One channel entry carried by WRITE CHANNELS: which channel it names and the settings it carries. -/
inductive ChannelEntry where
  | input (k : Fin 8) (enabled : Bool) (source : InputSource) (constant : Sample)
  | output (k : Fin 8) (enabled : Bool) (policy : VacancyPolicy)
  deriving DecidableEq, Repr

/-- The table position that an entry names: 0 to 7 inputs, 8 to 15 outputs. -/
def ChannelEntry.position : ChannelEntry → Nat
  | .input k _ _ _ => k.val
  | .output k _ _ => k.val + 8

/-- A channel entry read from its five bytes; none when the position is 16 or more, or the source or policy names
nothing (R66, R192). Spare positions, and bytes 2 to 4 of an output entry, are ignored. -/
def readChannelEntry (b0 b1 b2 b3 b4 : Byte) : Option ChannelEntry :=
  let k : Fin 8 := (b0.extractLsb' 0 3).toFin
  if b0.toNat < 8 then
    (readSource (b1.extractLsb' 0 2)).map fun source => .input k (b1.getLsbD 7) source (readThree b2 b3 b4)
  else if b0.toNat < 16 then
    (readPolicy (b1.extractLsb' 0 2)).map fun policy => .output k (b1.getLsbD 7) policy
  else none

/-- The five bytes that READ CHANNELS returns for a table position; the unused fields of an output are zero (R68,
R116). -/
def channelEntryBytes (ch : ChannelUnit) (position : Fin 16) : List Byte :=
  if h : position.val < 8 then
    let c := ch.inputs[position.val]
    [byteOf position.val, channelSettings c.enabled c.source.code] ++ threeBytes c.constant
  else
    let c := ch.outputs[position.val - 8]
    [byteOf position.val, channelSettings c.enabled c.policy.code, 0x00, 0x00, 0x00]

/-! ### Request kinds and status codes -/

/-- The fourteen request kinds. -/
inductive RequestKind where
  | armChangeover
  | assign
  | cancelChangeover
  | readChannels
  | readCounters
  | readPlan
  | readStatus
  | relayOut
  | release
  | resetNode
  | rollCall
  | writeChannels
  | writePlan
  | writeSettings
  deriving DecidableEq, Repr

/-- Kind codes 10H to 1DH. -/
def RequestKind.code : RequestKind → Byte
  | .armChangeover => 0x10
  | .assign => 0x11
  | .cancelChangeover => 0x12
  | .readChannels => 0x13
  | .readCounters => 0x14
  | .readPlan => 0x15
  | .readStatus => 0x16
  | .relayOut => 0x17
  | .release => 0x18
  | .resetNode => 0x19
  | .rollCall => 0x1A
  | .writeChannels => 0x1B
  | .writePlan => 0x1C
  | .writeSettings => 0x1D

/-- Every request kind, in the order of the codes. -/
def RequestKind.all : List RequestKind :=
  [.armChangeover, .assign, .cancelChangeover, .readChannels, .readCounters, .readPlan, .readStatus, .relayOut,
    .release, .resetNode, .rollCall, .writeChannels, .writePlan, .writeSettings]

/-- The request kind that a Kind byte names; any value but 10H to 1DH names none (R188). -/
def readKind (kind : Byte) : Option RequestKind :=
  RequestKind.all.find? fun k => k.code == kind

/-- Inbound kind REPLY. -/
def kindReply : Byte := 0x80

/-- Inbound kind NOTICE. -/
def kindNotice : Byte := 0x81

/-- Inbound kind ROLL-CALL RETURN. -/
def kindRollCallReturn : Byte := 0x82

/-- Inbound kind RELAY IN. -/
def kindRelayIn : Byte := 0x83

/-- The broadcast destination. -/
def destinationAll : Byte := 63

/-- The status codes of replies (R99). -/
inductive Status where
  | ok
  | unknownKind
  | misdirected
  | badLength
  | outOfRange
  | conflict
  | busy
  | frozen
  | stale
  | locked
  | notArmed
  | full
  deriving DecidableEq, Repr

/-- Status code bytes. -/
def Status.code : Status → Byte
  | .ok => 0x00
  | .unknownKind => 0x01
  | .misdirected => 0x02
  | .badLength => 0x03
  | .outOfRange => 0x04
  | .conflict => 0x05
  | .busy => 0x06
  | .frozen => 0x07
  | .stale => 0x08
  | .locked => 0x09
  | .notArmed => 0x0A
  | .full => 0x0B

/-- Roll-call scope codes. -/
def scopeAll : Byte := 0x00

/-- Scope UNASSIGNED. -/
def scopeUnassigned : Byte := 0x01

/-- Scope ASSIGNED. -/
def scopeAssigned : Byte := 0x02

/-! ### Local control port result codes -/

/-- Result code OK. -/
def resultOk : Byte := 0x80

/-- Result code EMPTY. -/
def resultEmpty : Byte := 0x81

/-- Result code BUSY. -/
def resultBusy : Byte := 0x82

/-- Result code TOO_LONG. -/
def resultTooLong : Byte := 0x83

/-- Result code UNKNOWN. -/
def resultUnknown : Byte := 0x84

end Sys2Proof.Machine
end

