-- ==== Sys2Proof/Config.lean ====
section
/-! DEFINITION. What is fixed for the life of one part and differs from part to part. -/

namespace Sys2Proof

/-- The factory identity of this part. R166 says that it is fixed for the life of the part and the same after every
reset, and gives no number: an opaque constant, so that no proof can lean on its value. DESIGN CHOICE (safe),
notes/assumptions/2.md. -/
opaque Config.factoryIdentity : Identity

end Sys2Proof
end

