-- ==== Sys2Proof/Machine/ResetValues.lean ====
section
/-! DEFINITION. The value of each block after a device reset, as the chapter that owns the block states it. -/

namespace Sys2Proof.Machine

/-- R21: SEARCH, miss count 0, no expected number, watchdog stopped, counters 0. -/
def LockPort.reset : LockPort :=
  { lock := .search, missCount := 0, expected := none, watchdog := false, misses := 0, losses := 0 }

/-- R5: superframe 0, index 0, and the free-run timer running. -/
def FrameTiming.reset : FrameTiming :=
  { number := { superframe := 0, index := 0 }, freeRun := true }

/-- R45: PASS with channel number 0. -/
def PlanEntry.reset : PlanEntry :=
  { action := .pass, channel := 0 }

/-- R45: every entry PASS with channel number 0, in both directions. -/
def Bank.reset : Bank :=
  { outbound := Vector.replicate 32 PlanEntry.reset, inbound := Vector.replicate 32 PlanEntry.reset }

/-- R45, R61. -/
def PlanStore.reset : PlanStore :=
  { bankA := Bank.reset, bankB := Bank.reset, live := .a, state := .idle, target := none, applied := none,
    oldBank := none, lateChangeovers := 0 }

/-- R75: disabled, source PORT, constant 0, sample and ramp 0, counter 0, input word register 0. -/
def InputChannel.reset : InputChannel :=
  { enabled := false, source := .port, constant := 0, sample := 0, ramp := 0, collisions := 0, word := 0 }

/-- R75: disabled, policy ZERO, holding value 0, written mark clear, counter 0. -/
def OutputChannel.reset : OutputChannel :=
  { enabled := false, policy := .zero, holding := 0, written := false, vacancies := 0 }

/-- R75: every channel reset, no converter frame in progress. -/
def ChannelUnit.reset : ChannelUnit :=
  { inputs := Vector.replicate 8 InputChannel.reset, outputs := Vector.replicate 8 OutputChannel.reset,
    converterFrame := none }

/-- R90. -/
def ServiceReceiver.reset : ServiceReceiver :=
  { assembler := .idle, requests := [], sequenceErrors := 0, lengthErrors := 0, checkErrors := 0,
    requestsDropped := 0 }

/-- R107, R108: READY, unassigned, empty store, relay timeout 16, all ten notice kinds enabled. -/
def Executor.reset : Executor :=
  { state := .ready, address := 0, lastReply := none, relayTimeout := 16, noticeEnable := BitVec.allOnes 10 }

/-- R155. -/
def InboundUnit.reset : InboundUnit :=
  { slots := Vector.replicate 2 .free, order := [], rx := .idle, queue := [], emission := none,
    lastWinner := .ownQueue, noticeNumber := 1, checkErrors := 0, passDropped := 0 }

/-- R155: nothing pending, the COLLISION detail empty. -/
def PendingNotices.reset : PendingNotices :=
  { headLost := .none, headRestored := .none, tailLost := .none, tailRestored := .none, changeoverDone := .none,
    collision := .none, requestDropped := .none, passDropped := .none, relayExpired := .none,
    relayDelivered := .none }

/-- R176. -/
def RelayUnit.reset : RelayUnit :=
  { outward := none, inward := .empty, relayInNumber := 1 }

/-- R185: flags, mask and lock clear, and no transaction in progress. -/
def LocalPort.reset : LocalPort :=
  { flags := 0, mask := 0, channelLock := false, transaction := .closed }

/-- DEDUCED and DESIGN CHOICE: no frame in the head-side port and nothing sent since the reset
(notes/assumptions/3.md, notes/assumptions/4.md). -/
def Wires.reset : Wires :=
  { tailSent := [], headTx := [], headSent := [], converterSent := [], ldo := [] }

end Sys2Proof.Machine
end

