-- ==== Sys2Proof/Machine/State.lean ====
section
/-! DEFINITION. The state of the 832 as plain data, the reasons a step can stop, and the state after a device reset. -/

namespace Sys2Proof.Machine

/-- The reasons the machine stops with a fault: there is none. The spec names no fault that stops the node; bad headers,
bad messages and refused requests are answered or counted, and the node goes on (R7, R8, R81, R97). -/
inductive Fault where
  deriving DecidableEq, Repr

/-- The reasons a command is turned away. -/
inductive Refusal where
  /-- Raised by exec for a command without a meaning (safe). No arm of exec raises it in this model. -/
  | notModelled (mnemonic : String)
  deriving DecidableEq, Repr

/-- The whole state of a node, and the commands waiting for it (first in, first out). -/
structure State where
  identity : Identity
  timing : FrameTiming
  headPort : LockPort
  headLostSeen : Bool
  tailPort : LockPort
  plan : PlanStore
  chan : ChannelUnit
  receiver : ServiceReceiver
  executor : Executor
  inbound : InboundUnit
  notices : PendingNotices
  relay : RelayUnit
  port : LocalPort
  wires : Wires
  pending : List Instr
  deriving DecidableEq, Repr

/-- The node right after a device reset (R5, R21, R45, R61, R75, R90, R108, R155, R176, R185). -/
def State.reset : State :=
  { identity := Config.factoryIdentity, timing := FrameTiming.reset, headPort := LockPort.reset,
    headLostSeen := false, tailPort := LockPort.reset, plan := PlanStore.reset, chan := ChannelUnit.reset,
    receiver := ServiceReceiver.reset, executor := Executor.reset, inbound := InboundUnit.reset,
    notices := PendingNotices.reset, relay := RelayUnit.reset, port := LocalPort.reset, wires := Wires.reset,
    pending := [] }

end Sys2Proof.Machine
end

