-- ==== Sys2Proof/Machine/Flags.lean ====
section
/-! DEFINITION. The local flags, the interrupt line, the notice sets and the saturating counters. -/

namespace Sys2Proof.Machine

/-- An event at a 16-bit counter: counted, except that 65535 stays (00 Notation, "Counters"). -/
def bump (c : Counter) : Counter :=
  if c = 0xFFFF then c else c + 1

/-- The seven local flags (R181). -/
inductive LocalFlag where
  | outwardArrived
  | outwardExpired
  | inwardSent
  | headLost
  | changeover
  | addressChanged
  | nodeReset
  deriving DecidableEq, Repr

/-- The position of a flag in a local flag set (Chapter 11). -/
def LocalFlag.bit : LocalFlag → Nat
  | .outwardArrived => 0
  | .outwardExpired => 1
  | .inwardSent => 2
  | .headLost => 3
  | .changeover => 4
  | .addressChanged => 5
  | .nodeReset => 6

/-- Whether a flag is set. -/
def LocalPort.hasFlag (p : LocalPort) (f : LocalFlag) : Bool :=
  p.flags.getLsbD f.bit

/-- R181: setting a flag that is already set leaves it set. -/
def LocalPort.withFlag (p : LocalPort) (f : LocalFlag) : LocalPort :=
  { p with flags := p.flags ||| (1#7 <<< f.bit) }

/-- Sets a local flag of the node. -/
def State.setFlag (s : State) (f : LocalFlag) : State :=
  { s with port := s.port.withFlag f }

/-- The interrupt line LINT: asserted while at least one local flag is set whose position in the mask is set (R183). -/
def State.lint (s : State) : Bool :=
  s.port.flags &&& s.port.mask != 0

/-- A local flag set in a byte: bit 7 carries zero (R182, R183). -/
def flagSetByte (x : BitVec 7) : Byte :=
  x.zeroExtend 8

/-- The flags that an argument byte names: bit 7 names none and is ignored (R182, R183). -/
def readFlagSet (b : Byte) : BitVec 7 :=
  b.extractLsb' 0 7

/-- The pending notice set without its details, bit k for notice kind k (R123, Chapter 11). -/
def PendingNotices.kinds (n : PendingNotices) : BitVec 10 :=
  BitVec.ofBool n.relayDelivered.isSome ++ BitVec.ofBool n.relayExpired.isSome ++ BitVec.ofBool n.passDropped.isSome ++
    BitVec.ofBool n.requestDropped.isSome ++ BitVec.ofBool n.collision.isSome ++
    BitVec.ofBool n.changeoverDone.isSome ++ BitVec.ofBool n.tailRestored.isSome ++ BitVec.ofBool n.tailLost.isSome ++
    BitVec.ofBool n.headRestored.isSome ++ BitVec.ofBool n.headLost.isSome

/-- A notice set in two bytes: bits 15 to 10 are zero (R193). -/
def noticeSetBytes (x : BitVec 10) : List Byte :=
  twoBytes (x.zeroExtend 16)

end Sys2Proof.Machine
end

