-- ==== Sys2Proof/Machine/Ops.lean ====
section
/-! DEFINITION. Operations that several blocks share: the numbering of frames, messages and their chunks, the outgoing
queue's room, and the record that a node puts into a roll call. -/

namespace Sys2Proof.Machine

/-! ### Numbering (R2) -/

/-- R2: the successor of (s, i) is (s, i + 1) when i is less than 63 and (s + 1, 0) when i is 63, with the wrap. -/
def FrameNo.succ (n : FrameNo) : FrameNo :=
  if n.index = 63 then { superframe := n.superframe + 1, index := 0 } else { n with index := n.index + 1 }

/-- R2: m is at or after n when (m - n) mod 16,777,216 is less than 8,388,608. -/
def atOrAfter (m n : Superframe) : Bool :=
  (m - n).toNat < 8388608

/-! ### Messages (Chapter 5) -/

/-- The bytes that the message check covers: byte positions 0 to 4 + L. -/
def Message.body (m : Message) : List Byte :=
  [m.destination, m.source, m.kind, m.sequence, byteOf m.payload.length] ++ m.payload

/-- A whole message: header, payload and check, the check's high byte first. -/
def Message.bytes (m : Message) : List Byte :=
  m.body ++ twoBytes m.check

/-- The same message with its check computed over header and payload (R82, R191). -/
def Message.sealed (m : Message) : Message :=
  { m with check := messageCheck m.body }

/-- A message that the node builds for the head: Destination 0 and the check computed. -/
def buildMessage (source kind sequence : Byte) (payload : List Byte) : Message :=
  Message.sealed
    { destination := 0, source := source, kind := kind, sequence := sequence, payload := payload, check := 0 }

/-- Whether the check that a message carries is the one computed over it (R82). -/
def Message.intact (m : Message) : Bool :=
  messageCheck m.body == m.check

/-- The message that the content bytes of a complete message spell; the bytes after the last check byte are padding and
are not read (R77). -/
def readMessage (bytes : List Byte) : Message :=
  let length := (byteAt bytes 4).toNat
  { destination := byteAt bytes 0, source := byteAt bytes 1, kind := byteAt bytes 2, sequence := byteAt bytes 3
    payload := (bytes.drop 5).take length
    check := readTwo (byteAt bytes (5 + length)) (byteAt bytes (6 + length)) }

/-- How many chunks carry a message (R77). -/
def Message.chunks (m : Message) : Nat :=
  chunkCount m.payload.length

/-- The tag of chunk k of n (R77, R146). -/
def chunkTag (n k : Nat) : Tag :=
  if n ≤ 1 then .only else if k = 0 then .first else if k + 1 = n then .last else .middle

/-- Chunk k of a message: bytes 8k to 8k + 7, with zeros after the last check byte (R146, R190). -/
def Message.chunk (m : Message) (k : Nat) : Chunk :=
  { tag := (chunkTag m.chunks k).code, content := Vector.ofFn fun j => byteAt m.bytes (8 * k + j.val) }

/-- What a chunk that begins a message means by its tag and the payload length it announces (R79, R139): a whole message,
the first chunk of a longer one, or a length that does not fit. -/
inductive Opening where
  | whole
  | begins
  | misfit
  deriving DecidableEq, Repr

/-- R79, R139: ONLY fits a payload length of 0 or 1, FIRST one of 2 to 120. -/
def openingOf (only : Bool) (length : Nat) : Opening :=
  if only then (if length ≤ 1 then .whole else .misfit)
  else if 2 ≤ length ∧ length ≤ 120 then .begins else .misfit

/-! ### The outgoing queue (R144) -/

/-- Whether an entry is a NOTICE. -/
def OutEntry.isNotice (e : OutEntry) : Bool :=
  e.message.kind == kindNotice

/-- How many messages other than NOTICE messages the outgoing queue holds, one being sent included. -/
def State.nonNotices (s : State) : Nat :=
  (s.inbound.queue.filter fun e => !e.isNotice).length

/-- R94, R144: there is room when fewer than 5 messages other than NOTICE messages are held. -/
def State.hasRoom (s : State) : Bool :=
  s.nonNotices < 5

/-- Adds a message at the tail of the outgoing queue. -/
def State.enqueue (s : State) (m : Message) (link : OutLink) : State :=
  { s with inbound := { s.inbound with queue := s.inbound.queue ++ [{ message := m, link := link }] } }

/-- Whether the node is assigned (R165). -/
def State.assigned (s : State) : Bool :=
  s.executor.address != 0

/-! ### Roll-call records (R158) -/

/-- The flags byte of a roll-call record: bit 0 TAIL, bit 1 ARMED, bit 2 LOCAL_LOCK. -/
def State.recordFlags (s : State) : Byte :=
  0#5 ++ BitVec.ofBool s.port.channelLock ++ BitVec.ofBool (s.plan.state == .armed) ++
    BitVec.ofBool (s.tailPort.lock != .locked)

/-- R158: the record of the node as it stands, with the hop count at joining. -/
def State.rollCallRecord (s : State) (hop : Nat) : List Byte :=
  sixBytes s.identity ++ [s.executor.address, byteOf hop, s.recordFlags]

/-- The ROLL-CALL RETURN that this node builds, originated (R129) or confirming an ASSIGN (R113): hop count 1, the flags
clear, and the node's own record or none. -/
def State.rollCallReturn (s : State) (scope sequence : Byte) (withRecord : Bool) : Message :=
  buildMessage s.executor.address kindRollCallReturn sequence
    ([scope, 0x01, flagByte withRecord, 0x00] ++ (if withRecord then s.rollCallRecord 1 else []))

end Sys2Proof.Machine
end

