-- ==== Sys2Proof/Machine/Ports.lean ====
section
/-! DEFINITION. The lock machine that both ports run (R6 to R8, R11, R17). -/

namespace Sys2Proof.Machine

/-- What a header, or an absent header, is to the port that saw it. -/
inductive PortOutcome where
  /-- Nothing is handed on: the port is hunting or confirming, or has just lost a confirmation (R7). -/
  | quiet
  /-- The port has just entered LOCKED with this frame (R8, R12, R17). -/
  | entered (f : Frame)
  /-- The locked port has accepted this frame (R8, R9, R16). -/
  | accepted (f : Frame)
  /-- A miss that leaves the port in LOCKED, at the number that was expected (R8, R10, R16). -/
  | missed (n : FrameNo)
  /-- The fourth miss, which has taken the port to SEARCH, at the number that was expected (R8, R11, R17). -/
  | lost (n : FrameNo)
  deriving DecidableEq, Repr

/-- R7: a failed confirmation returns the port to SEARCH. -/
def LockPort.backToSearch (p : LockPort) : LockPort :=
  { p with lock := .search, expected := none, watchdog := false }

/-- R8: a miss of a port in LOCKED. A locked port always has an expected number (Safety.PortsConsistent); the number
taken where there is none stands for no state that a run reaches. -/
def LockPort.miss (p : LockPort) : LockPort × PortOutcome :=
  let n := p.expected.getD { superframe := 0, index := 0 }
  let counted := { p with misses := bump p.misses, missCount := p.missCount + 1 }
  if p.missCount + 1 < 4 then ({ counted with expected := some n.succ }, .missed n)
  else ({ counted with lock := .search, expected := none, watchdog := false, losses := bump p.losses }, .lost n)

/-- R7, R8: a header arrives; `none` is a bad one. -/
def LockPort.header (p : LockPort) (received : Option Frame) : LockPort × PortOutcome :=
  match p.lock, received with
  | .search, none => (p, .quiet)
  | .search, some f =>
    ({ p with lock := .confirm, expected := some f.number.succ, watchdog := true }, .quiet)
  | .confirm, none => (p.backToSearch, .quiet)
  | .confirm, some f =>
    if p.expected = some f.number then
      ({ p with lock := .locked, missCount := 0, expected := some f.number.succ, watchdog := true }, .entered f)
    else (p.backToSearch, .quiet)
  | .locked, none => p.miss
  | .locked, some f =>
    if p.expected = some f.number then
      ({ p with missCount := 0, expected := some f.number.succ, watchdog := true }, .accepted f)
    else p.miss

/-- R6: the frame watchdog runs out. A stopped watchdog does not run out (notes/assumptions/5.md). -/
def LockPort.absent (p : LockPort) : LockPort × PortOutcome :=
  if p.watchdog then
    match p.lock with
    | .search => (p, .quiet)
    | .confirm => (p.backToSearch, .quiet)
    | .locked => p.miss
  else (p, .quiet)

end Sys2Proof.Machine
end

