-- ==== Sys2Proof/Machine/Receiver.lean ====
section
/-! DEFINITION. The service receiver: message assembler, check, acceptance, duplicate check and request queue
(Chapter 5). -/

namespace Sys2Proof.Machine

/-- What one chunk does to the assembler: its next state, whether a sequence error and a length error are counted, and
the content bytes of a message that it completes. -/
structure AssemblerStep where
  next : Assembler
  sequenceError : Bool
  lengthError : Bool
  complete : Option (List Byte)
  deriving DecidableEq, Repr

/-- R79: a chunk tagged ONLY or FIRST begins a message. -/
def openMessage (only : Bool) (c : Chunk) : AssemblerStep :=
  match openingOf only c.announcedLength with
  | .whole => { next := .idle, sequenceError := false, lengthError := false, complete := some c.content.toList }
  | .begins =>
    { next := .assembling c.content.toList 1 (chunkCount c.announcedLength), sequenceError := false,
      lengthError := false, complete := none }
  | .misfit => { next := .idle, sequenceError := false, lengthError := true, complete := none }

/-- R79, R81: a chunk that the assembler takes in IDLE. -/
def assembleIdle (c : Chunk) : AssemblerStep :=
  match readTag c.tag with
  | .idle => { next := .idle, sequenceError := false, lengthError := false, complete := none }
  | .only => openMessage true c
  | .first => openMessage false c
  | .middle | .last => { next := .idle, sequenceError := true, lengthError := false, complete := none }

/-- R79, R80, R81: one chunk at the assembler. -/
def Assembler.take (a : Assembler) (c : Chunk) : AssemblerStep :=
  match a with
  | .idle => assembleIdle c
  | .assembling buffer received expected =>
    match readTag c.tag with
    | .middle =>
      if received + 1 < expected then
        { next := .assembling (buffer ++ c.content.toList) (received + 1) expected, sequenceError := false,
          lengthError := false, complete := none }
      else { next := .idle, sequenceError := false, lengthError := true, complete := none }
    | .last =>
      if received + 1 = expected then
        { next := .idle, sequenceError := false, lengthError := false,
          complete := some (buffer ++ c.content.toList) }
      else { next := .idle, sequenceError := false, lengthError := true, complete := none }
    | .idle => { next := .idle, sequenceError := true, lengthError := false, complete := none }
    | .first | .only => { assembleIdle c with sequenceError := true }

/-- R84: how the node accepts a good message by its Destination and the node address, if it does. -/
def acceptance (address destination : Byte) : Option Addressing :=
  if destination = destinationAll then some .broadcast
  else if destination = address ∧ address ≠ 0 then some .individual
  else none

/-- R86: whether a request duplicates one that waits. -/
def isDuplicate (waiting : List Request) (r : Request) : Bool :=
  r.addressing == .individual && r.sequence != 0 &&
    waiting.any fun q => q.addressing == .individual && q.kind == r.kind && q.sequence == r.sequence

/-- R86, R87, R88: an accepted request is discarded as a duplicate, joins the queue, or is dropped. -/
def admitRequest (r : Request) (s : State) : State :=
  if isDuplicate s.receiver.requests r then s
  else if s.receiver.requests.length < 4 then
    { s with receiver := { s.receiver with requests := s.receiver.requests ++ [r] } }
  else
    { s with
      receiver := { s.receiver with requestsDropped := bump s.receiver.requestsDropped }
      notices := { s.notices with
        requestDropped := some { kind := r.kind, sequence := r.sequence, addressing := r.addressing } } }

/-- R82, R84, R85: a complete message is checked, accepted or ignored, and becomes a request. -/
def completeMessage (bytes : List Byte) (s : State) : State :=
  let m := readMessage bytes
  if m.intact then
    match acceptance s.executor.address m.destination with
    | some addressing =>
      admitRequest { addressing := addressing, kind := m.kind, sequence := m.sequence, payload := m.payload } s
    | none => s
  else { s with receiver := { s.receiver with checkErrors := bump s.receiver.checkErrors } }

/-- R79 to R88: the chunk of one outbound frame event at the service receiver. -/
def assembleChunk (c : Chunk) (s : State) : State :=
  let step := s.receiver.assembler.take c
  let counted : ServiceReceiver :=
    { s.receiver with
      assembler := step.next
      sequenceErrors := if step.sequenceError then bump s.receiver.sequenceErrors else s.receiver.sequenceErrors
      lengthErrors := if step.lengthError then bump s.receiver.lengthErrors else s.receiver.lengthErrors }
  match step.complete with
  | some bytes => completeMessage bytes { s with receiver := counted }
  | none => { s with receiver := counted }

end Sys2Proof.Machine
end

