-- ==== Sys2Proof/Machine/Channels.lean ====
section
/-! DEFINITION. The channel unit: the converter exchange, the input words, and the table write (Chapter 4). -/

namespace Sys2Proof.Machine

/-- R70: what the exchange does to an input channel. -/
def InputChannel.exchanged (c : InputChannel) : InputChannel :=
  if c.enabled then
    match c.source with
    | .port => { c with sample := c.word }
    | .constant => { c with sample := c.constant }
    | .ramp => { c with sample := c.ramp, ramp := c.ramp + 1 }
  else { c with sample := 0 }

/-- R71: the value that the exchange presents for an output channel. -/
def OutputChannel.presented (c : OutputChannel) : Sample :=
  if c.enabled then
    if c.written then c.holding
    else match c.policy with
      | .hold => c.holding
      | .zero => 0
  else 0

/-- R71: the output channel after the exchange holds what it presented, with its written mark clear. -/
def OutputChannel.exchanged (c : OutputChannel) : OutputChannel :=
  { c with holding := c.presented, written := false }

/-- R69, R70, R71: one converter exchange. It ends a converter frame still in progress where it stands, and starts a new
one with the words it presents. -/
def ChannelUnit.exchange (ch : ChannelUnit) : ChannelUnit :=
  { inputs := Vector.ofFn fun k => ch.inputs[k].exchanged
    outputs := Vector.ofFn fun k => ch.outputs[k].exchanged
    converterFrame := some { words := Vector.ofFn fun k => ch.outputs[k].presented, next := 0 } }

/-- R69, R70, R71: the converter exchange of the node. It marks the start of its converter frame on CFS at once, whether or not
a frame was in progress. -/
def State.exchange (s : State) : State :=
  { s with
    chan := s.chan.exchange
    wires := { s.wires with converterSent := s.wires.converterSent ++ [.frameStart] } }

/-- R69: the converter frame in progress, when it is the given channel's turn in it: the words come I0 first and I7 last.
A word out of its turn, or with no converter frame in progress, is shifted in by nothing (notes/assumptions/5.md). -/
def ChannelUnit.turnOf (ch : ChannelUnit) (channel : Fin 8) : Option ConverterFrame :=
  match ch.converterFrame with
  | none => none
  | some f => if f.next = channel then some f else none

/-- R69: the last bit of an input word has been received: the word replaces the register of its channel. The word of I7
completes the converter frame (DEDUCED, notes/assumptions/10.md). -/
def ChannelUnit.wordReceived (ch : ChannelUnit) (channel : Fin 8) (word : Sample) : ChannelUnit :=
  match ch.turnOf channel with
  | none => ch
  | some f =>
    { ch with
      inputs := ch.inputs.set channel { ch.inputs[channel] with word := word }
      converterFrame := if channel = 7 then none else some { f with next := channel + 1 } }

/-- R69: the output word that has been shifted out when the input word of the same turn has been shifted in (DEDUCED,
notes/assumptions/10.md). -/
def ChannelUnit.wordSent (ch : ChannelUnit) (channel : Fin 8) : List ConverterSignal :=
  match ch.turnOf channel with
  | none => []
  | some f => [.word f.words[channel]]

/-! ### The table write (R65, R66) -/

/-- R66: the entries that the payload of WRITE CHANNELS carries after its count byte, five bytes each; none when an
entry names no position, source or policy. -/
def readChannelEntries (payload : List Byte) (count : Nat) : Option (List ChannelEntry) :=
  (List.range count).mapM fun i =>
    readChannelEntry (byteAt payload (1 + 5 * i)) (byteAt payload (2 + 5 * i)) (byteAt payload (3 + 5 * i))
      (byteAt payload (4 + 5 * i)) (byteAt payload (5 + 5 * i))

/-- R66, test 3: no position is named by more than one entry. -/
def positionsDistinct (entries : List ChannelEntry) : Bool :=
  decide (entries.map ChannelEntry.position).Nodup

/-- R65: an input entry is written. RAMP loads the ramp value; disabling sets the current sample to zero. -/
def InputChannel.tableWritten (c : InputChannel) (enabled : Bool) (source : InputSource) (constant : Sample) :
    InputChannel :=
  { c with
    enabled := enabled
    source := source
    constant := constant
    ramp := if source = .ramp then constant else c.ramp
    sample := if enabled then c.sample else 0 }

/-- R65: an output entry is written. Disabling sets the holding value to zero and clears the written mark. -/
def OutputChannel.tableWritten (c : OutputChannel) (enabled : Bool) (policy : VacancyPolicy) : OutputChannel :=
  { c with
    enabled := enabled
    policy := policy
    holding := if enabled then c.holding else 0
    written := if enabled then c.written else false }

/-- R65: one carried entry replaces the entry at the position that it names. -/
def ChannelUnit.applyEntry (ch : ChannelUnit) : ChannelEntry → ChannelUnit
  | .input k enabled source constant =>
    { ch with inputs := ch.inputs.set k (ch.inputs[k].tableWritten enabled source constant) }
  | .output k enabled policy =>
    { ch with outputs := ch.outputs.set k (ch.outputs[k].tableWritten enabled policy) }

/-- R65: the whole write. No position is named twice, so the order of the entries does not matter. -/
def ChannelUnit.tableWrite (ch : ChannelUnit) (entries : List ChannelEntry) : ChannelUnit :=
  entries.foldl ChannelUnit.applyEntry ch

/-! ### Resets and counters (R73, R76) -/

/-- R76: a node reset keeps the input word registers and a converter frame in progress. -/
def ChannelUnit.nodeReset (ch : ChannelUnit) : ChannelUnit :=
  { inputs := Vector.ofFn fun k => { InputChannel.reset with word := ch.inputs[k].word }
    outputs := Vector.replicate 8 OutputChannel.reset
    converterFrame := ch.converterFrame }

/-- The sixteen per-channel counters in the order of R118. -/
def ChannelUnit.counters (ch : ChannelUnit) : List Counter :=
  ch.inputs.toList.map InputChannel.collisions ++ ch.outputs.toList.map OutputChannel.vacancies

/-- R73, R119: the sixteen per-channel counters set to 0. -/
def ChannelUnit.countersCleared (ch : ChannelUnit) : ChannelUnit :=
  { ch with
    inputs := Vector.ofFn fun k => { ch.inputs[k] with collisions := 0 }
    outputs := Vector.ofFn fun k => { ch.outputs[k] with vacancies := 0 } }

end Sys2Proof.Machine
end

