-- ==== Sys2Proof/Machine/Inbound.lean ====
section
/-! DEFINITION. The inbound service unit: pass-through buffer, inbound receiver, roll-call append and arbiter (Chapters
8 and 9). -/

namespace Sys2Proof.Machine

/-- An inbound check error is counted (R143). -/
def InboundUnit.checkError (u : InboundUnit) : InboundUnit :=
  { u with checkErrors := bump u.checkErrors }

/-- The slot that a new message claims: the lower-numbered one when both are FREE (R139). -/
def InboundUnit.freeSlot (u : InboundUnit) : Option (Fin 2) :=
  if u.slots[0] = .free then some 0 else if u.slots[1] = .free then some 1 else none

/-- A pass-through slot replaced. -/
def InboundUnit.setSlot (u : InboundUnit) (k : Fin 2) (x : PassSlot) : InboundUnit :=
  { u with slots := u.slots.set k x }

/-! ### The ROLL-CALL RETURN that passes (R159 to R161) -/

/-- R159: scope, hop count, record count and payload length of a return. The spare flags take no part. -/
def returnWellFormed (payload : List Byte) : Bool :=
  (byteAt payload 0).toNat ≤ 2 && 1 ≤ (byteAt payload 1).toNat && (byteAt payload 1).toNat ≤ 63 &&
    (byteAt payload 2).toNat ≤ 12 && payload.length == 4 + 9 * (byteAt payload 2).toNat

/-- R161: whether the scope of a return admits this node's record. -/
def State.scopeAdmits (s : State) (scope : Byte) : Bool :=
  scope == scopeAll || (scope == scopeUnassigned && !s.assigned)

/-- R160, R161: the payload of a well-formed return after this node has counted itself and added its record where it
may. Flags bit 0 is TRUNCATED and bit 1 OVERLONG; the other flags are carried on. -/
def State.appendedPayload (s : State) (payload : List Byte) : List Byte :=
  let scope := byteAt payload 0
  let hop := (byteAt payload 1).toNat
  let count := (byteAt payload 2).toNat
  let flags := byteAt payload 3
  let records := payload.drop 4
  if hop = 63 then [scope, 63, byteOf count, flags ||| 0x02] ++ records
  else if hop + 1 = 63 then [scope, 63, byteOf count, flags ||| 0x02] ++ records
  else if s.scopeAdmits scope then
    if count = 12 then
      [scope, byteOf (hop + 1), 12, flags ||| 0x01] ++ records.drop 9 ++ s.rollCallRecord (hop + 1)
    else [scope, byteOf (hop + 1), byteOf (count + 1), flags] ++ records ++ s.rollCallRecord (hop + 1)
  else [scope, byteOf (hop + 1), byteOf count, flags] ++ records

/-- R141, R159, R161: a good message as it is stored: a return that is not well formed is discarded, a well-formed one
is appended and its check computed afresh, and any other message is held unchanged. -/
def State.passThrough (s : State) (m : Message) : Option Message :=
  if m.kind = kindRollCallReturn then
    if returnWellFormed m.payload then some (Message.sealed { m with payload := s.appendedPayload m.payload })
    else none
  else some m

/-! ### The inbound receiver (R138 to R142) -/

/-- R141: a message is complete in slot k: COMPLETE and next in the completion order, or FREE with a check error. -/
def passCompletion (k : Fin 2) (bytes : List Byte) (s : State) : State :=
  let m := readMessage bytes
  match (if m.intact then s.passThrough m else none) with
  | some stored =>
    { s with inbound := { s.inbound.setSlot k (.complete stored) with order := s.inbound.order ++ [k] } }
  | none => { s with inbound := (s.inbound.setSlot k .free).checkError }

/-- R139: no slot is FREE for a message that fits: it is dropped, counted and reported. -/
def passDrop (c : Chunk) (s : State) : State :=
  { s with
    inbound := { s.inbound with passDropped := bump s.inbound.passDropped }
    notices := { s.notices with
      passDropped := some { source := c.content[1], kind := c.content[2], sequence := c.content[3] } } }

/-- R139: a chunk tagged ONLY or FIRST that the receiver takes in IDLE. The length is tested first, whether or not a
slot is free. -/
def beginPass (only : Bool) (c : Chunk) (s : State) : State :=
  match openingOf only c.announcedLength, s.inbound.freeSlot with
  | .misfit, _ => { s with inbound := s.inbound.checkError }
  | .whole, some k => passCompletion k c.content.toList s
  | .whole, none => passDrop c s
  | .begins, some k =>
    { s with inbound := { s.inbound.setSlot k (.receiving c.content.toList) with
        rx := .receiving k 1 (chunkCount c.announcedLength) } }
  | .begins, none =>
    let t := passDrop c s
    { t with inbound := { t.inbound with rx := .discarding } }

/-- R139, R140: a chunk that the inbound receiver takes in IDLE. -/
def inboundIdle (c : Chunk) (s : State) : State :=
  match readTag c.tag with
  | .idle => s
  | .only => beginPass true c s
  | .first => beginPass false c s
  | .middle | .last => { s with inbound := s.inbound.checkError }

/-- The message being received in slot k is given up: the slot becomes FREE and the receiver IDLE (R140, R142). -/
def InboundUnit.abandon (u : InboundUnit) (k : Fin 2) : InboundUnit :=
  { u.setSlot k .free with rx := .idle }

/-- The content bytes received so far in a slot. -/
def PassSlot.received : PassSlot → List Byte
  | .receiving bytes => bytes
  | _ => []

/-- R138 to R140: one received chunk at the inbound receiver. -/
def inboundReceive (c : Chunk) (s : State) : State :=
  match s.inbound.rx with
  | .idle => inboundIdle c s
  | .discarding =>
    match readTag c.tag with
    | .middle => s
    | .last | .idle => { s with inbound := { s.inbound with rx := .idle } }
    | .first | .only => inboundIdle c { s with inbound := { s.inbound with rx := .idle } }
  | .receiving k received expected =>
    let bytes := s.inbound.slots[k].received ++ c.content.toList
    match readTag c.tag with
    | .middle =>
      if received + 1 < expected then
        { s with inbound := { s.inbound.setSlot k (.receiving bytes) with
            rx := .receiving k (received + 1) expected } }
      else { s with inbound := (s.inbound.abandon k).checkError }
    | .last =>
      if received + 1 = expected then
        passCompletion k bytes { s with inbound := { s.inbound with rx := .idle } }
      else { s with inbound := (s.inbound.abandon k).checkError }
    | .idle => { s with inbound := (s.inbound.abandon k).checkError }
    | .first | .only => inboundIdle c { s with inbound := (s.inbound.abandon k).checkError }

/-- R142: a tail-side miss discards the message being received, or ends a discard, and counts nothing here. -/
def InboundUnit.tailMiss (u : InboundUnit) : InboundUnit :=
  match u.rx with
  | .idle => u
  | .discarding => { u with rx := .idle }
  | .receiving k _ _ => u.abandon k

/-! ### The inbound arbiter (R146 to R148) -/

/-- The message that a pass-through slot holds whole. -/
def PassSlot.message : PassSlot → Option Message
  | .complete m => some m
  | .sending m => some m
  | _ => none

/-- The message of an emission in progress. -/
def InboundUnit.emitted (u : InboundUnit) (e : Emission) : Option Message :=
  match e.source with
  | .slot k => u.slots[k].message
  | .ownQueue => u.queue.head?.map OutEntry.message

/-- R147: the pass-through candidate, the COMPLETE slot first in the completion order. -/
def InboundUnit.passCandidate (u : InboundUnit) : Option (Fin 2 × Message) :=
  match u.order with
  | k :: _ => u.slots[k].message.map fun m => (k, m)
  | [] => none

/-- R147: a pass-through message wins: its slot becomes SENDING and its first chunk is placed. -/
def startPass (k : Fin 2) (m : Message) (s : State) : Chunk × State :=
  (m.chunk 0,
    { s with inbound := { s.inbound.setSlot k (.sending m) with
        order := s.inbound.order.tail
        emission := some { source := .slot k, placed := 1, sent := 0 }
        lastWinner := .passThrough } })

/-- R147, R173: the oldest outgoing message wins: its first chunk is placed, and a RELAY IN takes the inward box from
QUEUED to SENDING. -/
def startOwn (e : OutEntry) (s : State) : Chunk × State :=
  (e.message.chunk 0,
    { s with
      inbound := { s.inbound with
        emission := some { source := .ownQueue, placed := 1, sent := 0 }
        lastWinner := .ownQueue }
      relay :=
        match e.link, s.relay.inward with
        | .inwardBox, .queued p => { s.relay with inward := .sending p }
        | _, _ => s.relay })

/-- R147, R148: the chunk that an inbound frame carries toward the head. -/
def arbitrate (s : State) : Chunk × State :=
  match s.inbound.emission with
  | some e =>
    match s.inbound.emitted e with
    | some m =>
      if e.placed < m.chunks then
        (m.chunk e.placed,
          { s with inbound := { s.inbound with emission := some { e with placed := e.placed + 1 } } })
      else (Chunk.idle, s)
    | none => (Chunk.idle, s)
  | none =>
    match s.inbound.passCandidate, s.inbound.queue with
    | none, [] => (Chunk.idle, s)
    | some (k, m), [] => startPass k m s
    | none, e :: _ => startOwn e s
    | some (k, m), e :: _ =>
      match s.inbound.lastWinner with
      | .ownQueue => startPass k m s
      | .passThrough => startOwn e s

end Sys2Proof.Machine
end

