-- ==== Sys2Proof/Machine/Resets.lean ====
section
/-! DEFINITION. The device reset and the node reset (R21, R45, R62, R76, R91, R105, R106, R156, R177, R186). -/

namespace Sys2Proof.Machine

/-- R185: a device reset ends a transaction in progress; the next one begins once LSEL has been released and asserted
again. -/
def Transaction.afterDeviceReset : Transaction → Transaction
  | .closed => .closed
  | .collecting _ | .responding _ _ | .barred => .barred

/-- The device reset: every block at its device-reset value. The identity is the part's for life (R166), LSEL is the local
controller's (R185), and the commands waiting outside are not the node's state. -/
def deviceResetState (s : State) : State :=
  { State.reset with
    identity := s.identity
    port := { LocalPort.reset with transaction := s.port.transaction.afterDeviceReset }
    pending := s.pending }

/-- R21: a node reset sets the two port counters to 0 and keeps the rest of the port. -/
def LockPort.countersCleared (p : LockPort) : LockPort :=
  { p with misses := 0, losses := 0 }

/-- R156: what a node reset leaves in the outgoing queue: the message whose emission has begun, which is the oldest, and
which from then on ends without effect on another block (R177). -/
def InboundUnit.keptQueue (u : InboundUnit) : List OutEntry :=
  match u.emission with
  | some { source := .ownQueue, .. } => (u.queue.take 1).map fun e => { e with link := .plain }
  | _ => []

/-- R156: the inbound service unit after a node reset. -/
def InboundUnit.nodeReset (u : InboundUnit) : InboundUnit :=
  { u with queue := u.keptQueue, noticeNumber := 1, checkErrors := 0, passDropped := 0 }

/-- R105, R106: the node reset. -/
def nodeResetState (s : State) : State :=
  State.setFlag
    { s with
      headPort := s.headPort.countersCleared
      tailPort := s.tailPort.countersCleared
      plan := PlanStore.reset
      chan := s.chan.nodeReset
      receiver := ServiceReceiver.reset
      executor := { Executor.reset with address := s.executor.address }
      inbound := s.inbound.nodeReset
      notices := PendingNotices.reset
      relay := RelayUnit.reset } .nodeReset

end Sys2Proof.Machine
end

