-- ==== Sys2Proof/Machine/Plan.lean ====
section
/-! DEFINITION. The plan store: banks, the draft write with the output-target law, changeover and refresh (Chapters 2
and 3). -/

namespace Sys2Proof.Machine

/-- The other bank letter. -/
def BankName.other : BankName → BankName
  | .a => .b
  | .b => .a

/-- The bank of a letter. -/
def PlanStore.bank (p : PlanStore) : BankName → Bank
  | .a => p.bankA
  | .b => p.bankB

/-- The letter of the draft bank: the one the live selector does not name (R36). -/
def PlanStore.draft (p : PlanStore) : BankName :=
  p.live.other

/-- The plan store with the bank of a letter replaced. -/
def PlanStore.setBank (p : PlanStore) (name : BankName) (b : Bank) : PlanStore :=
  match name with
  | .a => { p with bankA := b }
  | .b => { p with bankB := b }

/-- The plan of a direction. -/
def Bank.plan (b : Bank) : Direction → Plan
  | .outbound => b.outbound
  | .inbound => b.inbound

/-- The bank with the plan of a direction replaced. -/
def Bank.setPlan (b : Bank) (d : Direction) (p : Plan) : Bank :=
  match d with
  | .outbound => { b with outbound := p }
  | .inbound => { b with inbound := p }

/-! ### The output-target law (R40 to R44) -/

/-- Whether an entry names output channel k: COPY or TAKE with channel number k (R40). -/
def PlanEntry.namesOutput (e : PlanEntry) (k : Fin 8) : Bool :=
  (e.action == .copy || e.action == .take) && e.channel == k

/-- How many entries of a bank name output k, both directions together (R43). -/
def Bank.namings (b : Bank) (k : Fin 8) : Nat :=
  (b.outbound.toList ++ b.inbound.toList).countP fun e => e.namesOutput k

/-- R40: no output channel is named by more than one COPY or TAKE entry. -/
def Bank.lawful (b : Bank) : Bool :=
  (List.finRange 8).all fun k => b.namings k ≤ 1

/-- R41: first slot 0 to 31, count 1 to 32, first slot plus count not more than 32. -/
def planWindowValid (first count : Nat) : Bool :=
  first ≤ 31 && 1 ≤ count && count ≤ 32 && first + count ≤ 32

/-- A plan with the entries of a window replaced, the entry at `first + i` by the i-th one carried. -/
def Plan.written (p : Plan) (first : Nat) (entries : List PlanEntry) : Plan :=
  Vector.ofFn fun k =>
    if first ≤ k.val then (entries[k.val - first]?).getD p[k] else p[k]

/-! ### Selecting a bank for a frame (R38, R39) -/

/-- The bank that an inbound frame of superframe m is processed with, and the plan store after the selection. In SPLIT
a frame at or after the applied superframe is processed with the live bank and ends SPLIT (R39, R54, R57); a frame
before it is processed with the old bank. In every other state the live bank is used (R38). -/
def PlanStore.selectInbound (p : PlanStore) (m : Superframe) : Bank × PlanStore :=
  match p.state, p.applied with
  | .split, some a =>
    if atOrAfter m a.superframe then (p.bank p.live, { p with state := .refresh, oldBank := none })
    else (p.bank (p.oldBank.getD p.draft), p)
  | _, _ => (p.bank p.live, p)

/-! ### The superframe boundary (R50, R51, R58) -/

/-- R51, items 1 to 6: the changeover fires at the boundary of superframe n with target t. -/
def PlanStore.fired (p : PlanStore) (n t : Superframe) : PlanStore :=
  { p with
    oldBank := some p.live
    live := p.live.other
    applied := some { superframe := n, late := n != t }
    target := none
    state := .split
    lateChangeovers := if n != t then bump p.lateChangeovers else p.lateChangeovers }

/-- R50, R51: the changeover check at the boundary of superframe n; a firing also makes CHANGEOVER_DONE pending and
sets the local flag CHANGEOVER. -/
def changeoverCheck (n : Superframe) (s : State) : State :=
  match s.plan.state, s.plan.target with
  | .armed, some t =>
    if atOrAfter n t then
      State.setFlag
        { s with
          plan := s.plan.fired n t
          notices := { s.notices with changeoverDone := some { superframe := n, late := n != t } } } .changeover
    else s
  | _, _ => s

/-- R58: in REFRESH the draft bank becomes a copy of the live bank and the state becomes IDLE. -/
def refreshCompletion (s : State) : State :=
  match s.plan.state with
  | .refresh =>
    { s with plan := { s.plan.setBank s.plan.draft (s.plan.bank s.plan.live) with state := .idle } }
  | _ => s

end Sys2Proof.Machine
end

