-- ==== Sys2Proof/Machine/Slots.lean ====
section
/-! DEFINITION. The slot engines (R22 to R35). -/

namespace Sys2Proof.Machine

/-- What an entry leaves in its slot (R25 to R31). A disabled channel makes its entry act as PASS. -/
def slotAfter (ch : ChannelUnit) (e : PlanEntry) (slot : Slot) : Slot :=
  match e.action with
  | .pass => slot
  | .copy => slot
  | .take => if ch.outputs[e.channel].enabled then none else slot
  | .fill =>
    if ch.inputs[e.channel].enabled then
      match slot with
      | none => some ch.inputs[e.channel].sample
      | some v => some v
    else slot
  | .force => if ch.inputs[e.channel].enabled then some ch.inputs[e.channel].sample else slot

/-- R26, R27: a COPY or TAKE writes the holding value of an enabled output, or counts a vacancy. -/
def OutputChannel.driven (c : OutputChannel) (slot : Slot) : OutputChannel :=
  if c.enabled then
    match slot with
    | some v => { c with holding := v, written := true }
    | none => { c with vacancies := bump c.vacancies }
  else c

/-- R32: input k joins the COLLISION detail, and COLLISION becomes pending if it is not. -/
def PendingNotices.addCollision (n : PendingNotices) (k : Fin 8) : PendingNotices :=
  { n with collision := some (n.collision.getD 0 ||| (1#8 <<< k.val)) }

/-- R28, R32, R33: a FILL of an enabled input that finds its slot occupied yields. -/
def fillYields (ch : ChannelUnit) (k : Fin 8) (slot : Slot) : Bool :=
  ch.inputs[k].enabled && slot.isSome

/-- What an entry does to the channel it names and to the COLLISION detail (R25 to R33). -/
def slotEffect (e : PlanEntry) (slot : Slot) (s : State) : State :=
  match e.action with
  | .pass => s
  | .copy | .take =>
    let c := s.chan.outputs[e.channel]
    { s with chan := { s.chan with outputs := s.chan.outputs.set e.channel (c.driven slot) } }
  | .fill =>
    if fillYields s.chan e.channel slot then
      let c := s.chan.inputs[e.channel]
      { s with
        chan := { s.chan with inputs := s.chan.inputs.set e.channel { c with collisions := bump c.collisions } }
        notices := s.notices.addCollision e.channel }
    else s
  | .force => s

/-- R34: a slot engine applies entry k of a plan to slot k, for every k from 0 to 31. The slots sent depend on the
enabled settings and input samples, which slot processing does not change. -/
def slotsAfter (plan : Plan) (slots : Slots) (ch : ChannelUnit) : Slots :=
  Vector.ofFn fun k => slotAfter ch plan[k] slots[k]

/-- R34: the effects of the 32 entries on the channels and the COLLISION detail. -/
def slotEffects (plan : Plan) (slots : Slots) (s : State) : State :=
  (List.finRange 32).foldl (fun t k => slotEffect plan[k] slots[k] t) s

end Sys2Proof.Machine
end

