-- ==== Sys2Proof/Machine/Frames.lean ====
section
/-! DEFINITION. The two frame events (R19, R20), the superframe boundary, what each port hands on (R9 to R13, R16 to
R18), and the end of an emission (R14, R149). -/

namespace Sys2Proof.Machine

/-! ### The superframe boundary (R19, stage 2) -/

/-- R169: the relay unit's action on the outward box at the boundary of superframe n. -/
def relayBoundary (n : Superframe) (s : State) : State :=
  match s.relay.outward with
  | none => s
  | some box =>
    match box.countdown with
    | none => s
    | some c =>
      if 1 < c.toNat then
        { s with relay := { s.relay with outward := some { box with countdown := some (c - 1) } } }
      else
        State.setFlag
          { s with
            relay := { s.relay with outward := none }
            notices := { s.notices with
              relayExpired := some { superframe := n, length := byteOf box.payload.length } } } .outwardExpired

/-- R19, stage 2: changeover check, refresh completion and relay countdown. -/
def superframeBoundary (n : Superframe) (s : State) : State :=
  relayBoundary n (refreshCompletion (changeoverCheck n s))

/-! ### The frame events -/

/-- R20, stage 1: the bank that processes an inbound frame, and the plan store after the selection. -/
def selectInbound (n : FrameNo) (s : State) : Bank × State :=
  let (bank, plan) := s.plan.selectInbound n.superframe
  (bank, { s with plan := plan })

/-- R14: a frame is handed to the head-side port to be sent toward the head. -/
def sendInbound (f : Frame) (s : State) : State :=
  { s with wires := { s.wires with headTx := s.wires.headTx ++ [f] } }

/-- R15: a frame is sent through the tail-side port. -/
def sendOutbound (f : Frame) (s : State) : State :=
  { s with wires := { s.wires with tailSent := s.wires.tailSent ++ [f] } }

/-- R20: an inbound frame event. `received` is the chunk of a received frame and absent for a substitute or originated
one. -/
def inboundFrameEvent (f : Frame) (received : Option Chunk) (s : State) : State :=
  let (bank, s1) := selectInbound f.number s
  let slots := slotsAfter bank.inbound f.slots s1.chan
  let s2 := slotEffects bank.inbound f.slots s1
  let s3 := match received with
    | some c => inboundReceive c s2
    | none => s2
  let (chunk, s4) := arbitrate s3
  sendInbound { f with chunk := chunk, slots := slots } s4

/-- R19, stages 1 to 3: numbering, boundary actions and converter exchange of an outbound frame event. -/
def outboundArrival (n : FrameNo) (s : State) : State :=
  let s1 := { s with timing := { s.timing with number := n } }
  State.exchange (if n.index = 0 then superframeBoundary n.superframe s1 else s1)

/-- R18: while the tail-side port is not in LOCKED, an outbound frame sent originates an inbound frame. -/
def originateInbound (n : FrameNo) (s : State) : State :=
  if s.tailPort.lock = .locked then s else inboundFrameEvent (originatedFrame n) none s

/-- R19: an outbound frame event. -/
def outboundFrameEvent (f : Frame) (s : State) : State :=
  let s1 := outboundArrival f.number s
  let plan := (s1.plan.bank s1.plan.live).outbound
  let slots := slotsAfter plan f.slots s1.chan
  let s2 := assembleChunk f.chunk (slotEffects plan f.slots s1)
  originateInbound f.number (sendOutbound { f with slots := slots } s2)

/-! ### What the ports do with an outcome -/

/-- R9 to R12: the head-side port's outcome, the port itself already moved on. -/
def headOutcome (outcome : PortOutcome) (s : State) : State :=
  match outcome with
  | .quiet => s
  | .entered f =>
    outboundFrameEvent f
      { s with
        timing := { s.timing with freeRun := false }
        notices := { s.notices with headRestored := some f.number.superframe } }
  | .accepted f => outboundFrameEvent f s
  | .missed n => outboundFrameEvent (substituteFrame n) s
  | .lost n =>
    outboundFrameEvent (freeRunFrame n)
      (State.setFlag
        { s with
          timing := { s.timing with freeRun := true }
          notices := { s.notices with headLost := some n.superframe } } .headLost)

/-- R13: a good header sets or clears HEAD_LOST-seen, and one with the flag set also sets the local flag. -/
def noteHeadLost (received : Option Frame) (s : State) : State :=
  match received with
  | none => s
  | some f => if f.headLost then State.setFlag { s with headLostSeen := true } .headLost
    else { s with headLostSeen := false }

/-- R16, R17, R142: the tail-side port's outcome, the port itself already moved on. -/
def tailOutcome (outcome : PortOutcome) (s : State) : State :=
  match outcome with
  | .quiet => s
  | .entered f =>
    inboundFrameEvent f (some f.chunk)
      { s with notices := { s.notices with tailRestored := some f.number.superframe } }
  | .accepted f => inboundFrameEvent f (some f.chunk) s
  | .missed n => inboundFrameEvent (substituteFrame n) none { s with inbound := s.inbound.tailMiss }
  | .lost n =>
    { s with
      inbound := s.inbound.tailMiss
      notices := { s.notices with tailLost := some n.superframe } }

/-- A header arrives at the head-side port (R7 to R13). -/
def headArrival (w : WireFrame) (s : State) : State :=
  let received := receivedFrame w
  let (port, outcome) := s.headPort.header received
  headOutcome outcome { noteHeadLost received s with headPort := port }

/-- A header arrives at the tail-side port (R7, R8, R16 to R18). -/
def tailArrival (w : WireFrame) (s : State) : State :=
  let (port, outcome) := s.tailPort.header (receivedFrame w)
  tailOutcome outcome { s with tailPort := port }

/-- A port's frame watchdog runs out (R6, R8). -/
def watchdogExpiry (port : TrunkPort) (s : State) : State :=
  match port with
  | .headSide =>
    let (p, outcome) := s.headPort.absent
    headOutcome outcome { s with headPort := p }
  | .tailSide =>
    let (p, outcome) := s.tailPort.absent
    tailOutcome outcome { s with tailPort := p }

/-- R4: the free-run timer runs out. A stopped timer does not run out (notes/assumptions/5.md). -/
def freeRunExpiry (s : State) : State :=
  if s.timing.freeRun then outboundFrameEvent (freeRunFrame s.timing.number.succ) s else s

/-- R69: one word has been shifted in on CDI and one out on CDO. -/
def converterWord (channel : Fin 8) (word : Sample) (s : State) : State :=
  { s with
    chan := s.chan.wordReceived channel word
    wires := { s.wires with converterSent := s.wires.converterSent ++ s.chan.wordSent channel } }

/-! ### The end of an emission (R14, R149) -/

/-- R104, R149, R173: what the removal of an outgoing message means to another block. The node reset of an individually
addressed RESET NODE is applied in the same happening. -/
def emissionEffect (link : OutLink) (s : State) : State :=
  match link with
  | .plain => s
  | .inwardBox => State.setFlag { s with relay := { s.relay with inward := .empty } } .inwardSent
  | .resetReply => if s.executor.state = .resetWait then nodeResetState s else s

/-- R149: the report of an emission's last chunk ends it: the slot becomes FREE, or the oldest outgoing message is
removed. -/
def endEmission (source : EmissionSource) (s : State) : State :=
  match source with
  | .slot k => { s with inbound := { s.inbound.setSlot k .free with emission := none } }
  | .ownQueue =>
    match s.inbound.queue with
    | [] => { s with inbound := { s.inbound with emission := none } }
    | e :: rest =>
      emissionEffect e.link { s with inbound := { s.inbound with queue := rest, emission := none } }

/-- R149: the chunk that a reported frame carried, at the emission in progress. -/
def emissionReport (c : Chunk) (s : State) : State :=
  match s.inbound.emission with
  | none => s
  | some e =>
    match readTag c.tag with
    | .idle => s
    | .first | .middle =>
      { s with inbound := { s.inbound with emission := some { e with sent := e.sent + 1 } } }
    | .last | .only => endEmission e.source s

/-- R14: the head-side port reports the oldest frame it has not reported yet, with its chunk. With no such frame there is
nothing to report (notes/assumptions/5.md). -/
def sentReport (s : State) : State :=
  match s.wires.headTx with
  | [] => s
  | f :: rest =>
    emissionReport f.chunk
      { s with wires := { s.wires with headTx := rest, headSent := s.wires.headSent ++ [f] } }

end Sys2Proof.Machine
end

