-- ==== Sys2Proof/Machine/Notices.lean ====
section
/-! DEFINITION. Building a NOTICE (R150 to R154). -/

namespace Sys2Proof.Machine

/-- A notice item: its kind code and its detail (Chapter 11), when the kind is pending and enabled. -/
def noticeItem (enable : BitVec 10) (kind : Nat) (detail : Option (List Byte)) : List (List Byte) :=
  match detail with
  | some bytes => if enable.getLsbD kind then [byteOf kind :: bytes] else []
  | none => []

/-- R153, item 1: the items of the pending kinds that are in the enable set, in the fixed order of the kinds. -/
def PendingNotices.items (n : PendingNotices) (enable : BitVec 10) : List (List Byte) :=
  noticeItem enable 0 (n.headLost.map threeBytes) ++
  noticeItem enable 1 (n.headRestored.map threeBytes) ++
  noticeItem enable 2 (n.tailLost.map threeBytes) ++
  noticeItem enable 3 (n.tailRestored.map threeBytes) ++
  noticeItem enable 4 (n.changeoverDone.map fun a => threeBytes a.superframe ++ [flagByte a.late]) ++
  noticeItem enable 5 (n.collision.map fun inputs => [inputs]) ++
  noticeItem enable 6 (n.requestDropped.map fun d => [d.kind, d.sequence, d.addressing.code]) ++
  noticeItem enable 7 (n.passDropped.map fun d => [d.source, d.kind, d.sequence]) ++
  noticeItem enable 8 (n.relayExpired.map fun d => threeBytes d.superframe ++ [d.length]) ++
  noticeItem enable 9 (n.relayDelivered.map fun length => [length])

/-- R151, R153: a pending kind that is enabled leaves the set. -/
def heldBack {α : Type} (enable : BitVec 10) (kind : Nat) (detail : Option α) : Option α :=
  if enable.getLsbD kind then none else detail

/-- R153, item 2: the pending kinds outside the enable set stay as they were. -/
def PendingNotices.kept (n : PendingNotices) (enable : BitVec 10) : PendingNotices :=
  { headLost := heldBack enable 0 n.headLost
    headRestored := heldBack enable 1 n.headRestored
    tailLost := heldBack enable 2 n.tailLost
    tailRestored := heldBack enable 3 n.tailRestored
    changeoverDone := heldBack enable 4 n.changeoverDone
    collision := heldBack enable 5 n.collision
    requestDropped := heldBack enable 6 n.requestDropped
    passDropped := heldBack enable 7 n.passDropped
    relayExpired := heldBack enable 8 n.relayExpired
    relayDelivered := heldBack enable 9 n.relayDelivered }

/-- The numbering of NOTICE and RELAY IN messages: 1 to 255, and 255 is followed by 1 (R152, R172). -/
def nextNumber (n : Byte) : Byte :=
  if n = 0xFF then 1 else n + 1

/-- R153: the conditions of a build. -/
def State.noticeDue (s : State) : Bool :=
  1 ≤ s.executor.address.toNat && s.executor.address.toNat ≤ 62 &&
    s.notices.kinds &&& s.executor.noticeEnable != 0 && s.inbound.queue.all fun e => !e.isNotice

/-- R153, item 3: the NOTICE that a build makes. -/
def State.noticeMessage (s : State) : Message :=
  let items := s.notices.items s.executor.noticeEnable
  buildMessage s.executor.address kindNotice s.inbound.noticeNumber (byteOf items.length :: items.flatten)

/-- R153: a NOTICE is built when its conditions hold; where they do not, there is no build
(notes/assumptions/5.md). -/
def buildNotice (s : State) : State :=
  if s.noticeDue then
    let t := s.enqueue s.noticeMessage .plain
    { t with
      notices := s.notices.kept s.executor.noticeEnable
      inbound := { t.inbound with noticeNumber := nextNumber s.inbound.noticeNumber } }
  else s

end Sys2Proof.Machine
end

