-- ==== Sys2Proof/Machine/Relay.lean ====
section
/-! DEFINITION. The relay unit's queuing, the local commands, and the transactions that carry them (Chapter 10). -/

namespace Sys2Proof.Machine

/-- R172: the RELAY IN that the relay unit builds from a posted payload. -/
def State.relayInMessage (s : State) (payload : List Byte) : Message :=
  buildMessage s.executor.address kindRelayIn s.relay.relayInNumber payload

/-- R172: a POSTED message is queued when the node is assigned and the outgoing queue has room; otherwise it stays POSTED
(notes/assumptions/5.md). -/
def queueRelayIn (s : State) : State :=
  match s.relay.inward with
  | .posted payload =>
    if 1 ≤ s.executor.address.toNat ∧ s.executor.address.toNat ≤ 62 ∧ s.hasRoom = true then
      let t := s.enqueue (s.relayInMessage payload) .inwardBox
      { t with relay := { t.relay with
          inward := .queued payload, relayInNumber := nextNumber s.relay.relayInNumber } }
    else s
  | _ => s

/-- R180: the node picture, 15 bytes. -/
def State.nodePicture (s : State) : List Byte :=
  sixBytes s.identity ++
    [s.executor.address, s.headPort.lock.code, s.tailPort.lock.code, flagByte s.headLostSeen, s.plan.state.code,
      flagByte s.relay.outward.isSome, (s.relay.outward.map fun box => byteOf box.payload.length).getD 0,
      s.relay.inward.code, flagByte s.port.channelLock]

/-! ### The local commands: the state after a command is taken with its argument bytes, and its response -/

/-- R180. -/
def localStatus (_arguments : List Byte) (s : State) : State × List Byte :=
  (s, resultOk :: s.nodePicture)

/-- R170. -/
def localReadOutward (_arguments : List Byte) (s : State) : State × List Byte :=
  match s.relay.outward with
  | some box =>
    let length := byteOf box.payload.length
    ({ s with
        relay := { s.relay with outward := none }
        notices := { s.notices with relayDelivered := some length } },
      [resultOk, length] ++ box.payload)
  | none => (s, [resultEmpty])

/-- R171: the arguments are the length byte and, for a length from 1 to 120, that many payload bytes. -/
def localPostInward (arguments : List Byte) (s : State) : State × List Byte :=
  let length := (byteAt arguments 0).toNat
  if 1 ≤ length ∧ length ≤ 120 then
    match s.relay.inward with
    | .empty => ({ s with relay := { s.relay with inward := .posted ((arguments.drop 1).take length) } }, [resultOk])
    | _ => (s, [resultBusy])
  else (s, [resultTooLong])

/-- R174: the queued RELAY IN leaves the outgoing queue; the messages behind it keep their order. -/
def InboundUnit.withdrawn (u : InboundUnit) : InboundUnit :=
  { u with queue := u.queue.filter fun e => e.link != .inwardBox }

/-- R174. -/
def localWithdrawInward (_arguments : List Byte) (s : State) : State × List Byte :=
  match s.relay.inward with
  | .empty => (s, [resultEmpty])
  | .posted _ => ({ s with relay := { s.relay with inward := .empty } }, [resultOk])
  | .queued _ =>
    ({ s with relay := { s.relay with inward := .empty }, inbound := s.inbound.withdrawn }, [resultOk])
  | .sending _ => (s, [resultBusy])

/-- R182. -/
def localReadFlags (_arguments : List Byte) (s : State) : State × List Byte :=
  (s, [resultOk, flagSetByte s.port.flags, flagSetByte s.port.mask])

/-- R182. -/
def localClearFlags (arguments : List Byte) (s : State) : State × List Byte :=
  let flags := s.port.flags &&& ~~~(readFlagSet (byteAt arguments 0))
  ({ s with port := { s.port with flags := flags } }, [resultOk, flagSetByte flags])

/-- R183. -/
def localSetMask (arguments : List Byte) (s : State) : State × List Byte :=
  let mask := readFlagSet (byteAt arguments 0)
  ({ s with port := { s.port with mask := mask } }, [resultOk, flagSetByte mask])

/-- R184. -/
def localLock (held : Bool) (_arguments : List Byte) (s : State) : State × List Byte :=
  ({ s with port := { s.port with channelLock := held } }, [resultOk])

/-- R179: a command byte that names no command is answered UNKNOWN, and nothing changes. -/
def localUnknown (_arguments : List Byte) (s : State) : State × List Byte :=
  (s, [resultUnknown])

/-! ### Transactions (R178) -/

/-- The transaction replaced. -/
def State.withTransaction (s : State) (x : Transaction) : State :=
  { s with port := { s.port with transaction := x } }

/-- LDO carries a byte while one is shifted in on LDI. -/
def State.shiftOut (s : State) (b : Byte) : State :=
  { s with wires := { s.wires with ldo := s.wires.ldo ++ [b] } }

/-- LSEL is asserted: a transaction begins, unless LSEL was asserted already (R178, R185). -/
def State.localSelect (s : State) : State :=
  match s.port.transaction with
  | .closed => s.withTransaction (.collecting [])
  | .collecting _ | .responding _ _ | .barred => s

/-- R178: one byte is shifted in on LDI in a transaction of the given command. LDO carries 00H up to the byte at which the
command is taken, then the response, and then 00H again; bytes after the taking are ignored. With LSEL released the port
takes no part, and after a device reset it waits for LSEL to be released (R185). -/
def shiftLocalByte (row : Option LocalCommand) (effect : List Byte → State → State × List Byte) (b : Byte) (s : State) :
    State :=
  match s.port.transaction with
  | .closed => s
  | .barred => s.shiftOut 0x00
  | .responding code rest => (s.shiftOut (rest.headD 0x00)).withTransaction (.responding code rest.tail)
  | .collecting bytes =>
    let now := bytes ++ [b]
    let t := s.shiftOut 0x00
    if argumentsComplete row now.tail then
      let (u, response) := effect now.tail t
      u.withTransaction (.responding (now.headD 0x00) response)
    else t.withTransaction (.collecting now)

/-- The command byte of the transaction that a stretch of bytes belongs to, where there is one: the first byte of the
transaction (R178). -/
def Transaction.command (x : Transaction) (bytes : List Byte) : Option Byte :=
  match x with
  | .closed | .barred => none
  | .collecting before => (before ++ bytes).head?
  | .responding code _ => some code

/-- Whether the transaction belongs to the row: its command byte, if it has one, names the row's command, or none for
UNKNOWN_COMMAND (R179). -/
def Transaction.belongs (row : Option LocalCommand) (x : Transaction) (bytes : List Byte) : Bool :=
  match x.command bytes with
  | some code => readLocalCommand code == row
  | none => true

/-- R178, R179: a stretch of a transaction of the row's command: LSEL may be asserted, bytes are shifted in one after
another, and LSEL may be released, which ends the transaction wherever it stands. A stretch of another command's
transaction is no step of this row (notes/assumptions/22.md). -/
def localTransfer (row : Option LocalCommand) (effect : List Byte → State → State × List Byte) (bytes : List Byte)
    (edges : LselEdges) (s : State) : State :=
  let s1 := if edges.asserted then s.localSelect else s
  if s1.port.transaction.belongs row bytes then
    let s2 := bytes.foldl (fun t b => shiftLocalByte row effect b t) s1
    if edges.released then s2.withTransaction .closed else s2
  else s

end Sys2Proof.Machine
end

