-- ==== Sys2Proof/Machine/Internal.lean ====
section
/-! DEFINITION. The meanings of the resets and of the internal happenings that the table lists as steps of their own. -/

namespace Sys2Proof.Machine

/-- DEVICE_RESET (R5, R21, R45, R61, R75, R90, R108, R155, R176, R185). -/
def execDeviceReset (s : State) : Host.Outcome State Fault Refusal :=
  .next (deviceResetState s)

/-- NODE_RESET (R105, R106). The command applies the node reset itself; notes/assumptions/7.md. -/
def execNodeReset (s : State) : Host.Outcome State Fault Refusal :=
  .next (nodeResetState s)

/-- NOTICE_BUILD (R153). -/
def execNoticeBuild (s : State) : Host.Outcome State Fault Refusal :=
  .next (buildNotice s)

/-- RELAY_IN_QUEUING (R172). -/
def execRelayInQueuing (s : State) : Host.Outcome State Fault Refusal :=
  .next (queueRelayIn s)

/-- RELAY_EXPIRY (R169): the relay unit's action at a superframe boundary, taken by itself for the current superframe
number; notes/assumptions/8.md. -/
def execRelayExpiry (s : State) : Host.Outcome State Fault Refusal :=
  .next (relayBoundary s.timing.number.superframe s)

end Sys2Proof.Machine
end

