-- ==== Sys2Proof/Machine/Local.lean ====
section
/-! DEFINITION. The meanings of the local commands (R178 to R184). -/

namespace Sys2Proof.Machine

/-- STATUS (R180). -/
def execStatus (s : State) (bytes : List Byte := [0x01]) (edges : LselEdges := .whole) :
    Host.Outcome State Fault Refusal :=
  .next (localTransfer (some .status) localStatus bytes edges s)

/-- READ_OUTWARD (R170). -/
def execReadOutward (s : State) (bytes : List Byte := [0x02]) (edges : LselEdges := .whole) :
    Host.Outcome State Fault Refusal :=
  .next (localTransfer (some .readOutward) localReadOutward bytes edges s)

/-- POST_INWARD (R171). -/
def execPostInward (bytes : List Byte) (edges : LselEdges) (s : State) :
    Host.Outcome State Fault Refusal :=
  .next (localTransfer (some .postInward) localPostInward bytes edges s)

/-- WITHDRAW_INWARD (R174). -/
def execWithdrawInward (s : State) (bytes : List Byte := [0x04]) (edges : LselEdges := .whole) :
    Host.Outcome State Fault Refusal :=
  .next (localTransfer (some .withdrawInward) localWithdrawInward bytes edges s)

/-- READ_FLAGS (R182). -/
def execReadFlags (s : State) (bytes : List Byte := [0x05]) (edges : LselEdges := .whole) :
    Host.Outcome State Fault Refusal :=
  .next (localTransfer (some .readFlags) localReadFlags bytes edges s)

/-- CLEAR_FLAGS (R182). -/
def execClearFlags (bytes : List Byte) (s : State) (edges : LselEdges := .whole) :
    Host.Outcome State Fault Refusal :=
  .next (localTransfer (some .clearFlags) localClearFlags bytes edges s)

/-- SET_MASK (R183). -/
def execSetMask (bytes : List Byte) (s : State) (edges : LselEdges := .whole) :
    Host.Outcome State Fault Refusal :=
  .next (localTransfer (some .setMask) localSetMask bytes edges s)

/-- SET_LOCK (R184). -/
def execSetLock (s : State) (bytes : List Byte := [0x08]) (edges : LselEdges := .whole) :
    Host.Outcome State Fault Refusal :=
  .next (localTransfer (some .setLock) (localLock true) bytes edges s)

/-- CLEAR_LOCK (R184). -/
def execClearLock (s : State) (bytes : List Byte := [0x09]) (edges : LselEdges := .whole) :
    Host.Outcome State Fault Refusal :=
  .next (localTransfer (some .clearLock) (localLock false) bytes edges s)

/-- UNKNOWN_COMMAND (R179). -/
def execUnknownCommand (bytes : List Byte) (s : State) (edges : LselEdges := .whole) :
    Host.Outcome State Fault Refusal :=
  .next (localTransfer none localUnknown bytes edges s)

end Sys2Proof.Machine
end

