-- ==== Sys2Proof/Machine/Executor.lean ====
section
/-! DEFINITION. The request executor: taking and waiting (R92 to R95), the general checks (R97, R98), replies (R100), the
last-reply store (R101, R102), and what each request kind does at its own checks (Chapter 7). -/

namespace Sys2Proof.Machine

/-- What a kind's own checks and effect come to: a refusal, or a new state with the reply data (R97). -/
inductive Verdict where
  | refuse (status : Status)
  | run (s : State) (data : List Byte)

/-! ### Replies and the last-reply store -/

/-- R100: the reply to a request, built under the given Source. -/
def replyMessage (source : Byte) (r : Request) (status : Status) (data : List Byte) : Message :=
  buildMessage source kindReply r.sequence ([status.code, r.kind] ++ data)

/-- R100, R101: a reply joins the outgoing queue, and the last-reply store takes it when the Sequence is not 0. -/
def placeReply (r : Request) (reply : Message) (link : OutLink) (s : State) : State :=
  let t := s.enqueue reply link
  if r.sequence = 0 then t
  else { t with executor := { t.executor with
      lastReply := some { kind := r.kind, sequence := r.sequence, reply := reply } } }

/-- R96, R100: an individually addressed request is answered under the Source given; a broadcast one is not. -/
def answer (source : Byte) (r : Request) (status : Status) (data : List Byte) (s : State) : State :=
  match r.addressing with
  | .individual => placeReply r (replyMessage source r status data) .plain s
  | .broadcast => s

/-- R102: whether the last-reply store answers a request. -/
def storeHit (r : Request) (s : State) : Option Message :=
  match s.executor.lastReply with
  | some e =>
    if r.addressing = .individual ∧ r.sequence ≠ 0 ∧ e.kind = r.kind ∧ e.sequence = r.sequence then some e.reply
    else none
  | none => none

/-! ### The general checks (R97, R98) -/

/-- R98: the kinds that are executed as broadcast. -/
def allowsBroadcast : RequestKind → Bool
  | .armChangeover | .assign | .cancelChangeover | .resetNode | .rollCall => true
  | .writeChannels | .writePlan | .writeSettings => true
  | .readChannels | .readCounters | .readPlan | .readStatus | .relayOut | .release => false

/-- R98: the kinds that are refused MISDIRECTED when individually addressed. -/
def broadcastOnly : RequestKind → Bool
  | .assign | .rollCall => true
  | .armChangeover | .cancelChangeover | .resetNode | .writeChannels | .writePlan | .writeSettings => false
  | .readChannels | .readCounters | .readPlan | .readStatus | .relayOut | .release => false

/-- R98: whether the payload length fits the kind. -/
def lengthFits (k : RequestKind) (payload : List Byte) : Bool :=
  let length := payload.length
  match k with
  | .armChangeover => length == 3
  | .assign => length == 7
  | .cancelChangeover => length == 0
  | .readChannels => length == 2
  | .readCounters => length == 2
  | .readPlan => length == 4
  | .readStatus => length == 0
  | .relayOut => 1 ≤ length && length ≤ 120
  | .release => length == 0
  | .resetNode => length == 0
  | .rollCall => length == 1
  | .writeChannels => 1 ≤ length && length == 1 + 5 * (byteAt payload 0).toNat
  | .writePlan => 3 ≤ length && length == 3 + (byteAt payload 2).toNat
  | .writeSettings => length == 3

/-- R97, checks 2 and 3: none when both pass. A broadcast of a kind that R96 discards is turned away like a refusal,
which for a broadcast is silent. -/
def generalCheck (k : RequestKind) (r : Request) : Option Status :=
  match r.addressing with
  | .individual =>
    if broadcastOnly k then some .misdirected
    else if lengthFits k r.payload then none else some .badLength
  | .broadcast =>
    if allowsBroadcast k = false then some .misdirected
    else if lengthFits k r.payload then none else some .badLength

/-- R97, R100: a request of a known kind is checked and executed, or refused. The reply's Source is the address standing
before the kind's effect, which for RELEASE is the old address (R126) and for every other kind that replies is also the
address after it. -/
def execute (k : RequestKind) (own : Request → State → Verdict) (r : Request) (s : State) : State :=
  match generalCheck k r with
  | some status => answer s.executor.address r status [] s
  | none =>
    match own r s with
    | .refuse status => answer s.executor.address r status [] s
    | .run t data => answer s.executor.address r .ok data t

/-! ### Taking and waiting (R92, R94, R95) -/

/-- R112: an ASSIGN that names this node and passes its checks. -/
def assignNames (r : Request) (s : State) : Bool :=
  identityAt r.payload 0 == s.identity && 1 ≤ (byteAt r.payload 6).toNat && (byteAt r.payload 6).toNat ≤ 62

/-- R128: the scopes of a ROLL CALL. -/
def rollCallScopeValid (r : Request) : Bool :=
  byteAt r.payload 0 == scopeAll || byteAt r.payload 0 == scopeUnassigned

/-- R95: whether a broadcast request would place a ROLL-CALL RETURN in the outgoing queue. -/
def placesReturn (r : Request) (s : State) : Bool :=
  match readKind r.kind with
  | some .assign => lengthFits .assign r.payload && assignNames r s
  | some .rollCall => lengthFits .rollCall r.payload && rollCallScopeValid r && s.tailPort.lock != .locked
  | _ => false

/-- R94, R95: whether a request must wait for room in the outgoing queue. -/
def mustWait (r : Request) (s : State) : Bool :=
  match r.addressing with
  | .individual => !s.hasRoom
  | .broadcast => placesReturn r s && !s.hasRoom

/-- R92: the executor takes its oldest request, where that request is one of the row that the command names: it waits, or
it is removed from the queue and dealt with. In RESET-WAIT, with an empty queue, or with another row's request at the
head, nothing is taken (notes/assumptions/5.md, notes/assumptions/6.md). -/
def takeOldest (row : Request → Bool) (deal : Request → State → State) (s : State) : State :=
  match s.receiver.requests with
  | [] => s
  | r :: rest =>
    if s.executor.state = .resetWait ∨ row r = false then s
    else if mustWait r s then { s with executor := { s.executor with state := .waiting } }
    else
      deal r
        { s with
          receiver := { s.receiver with requests := rest }
          executor := { s.executor with state := .ready } }

/-- The request at the head belongs to the row of kind k, or to UNKNOWN_KIND_REQUEST for none. One that the last-reply
store answers belongs to LAST_REPLY_ANSWER instead, once there is room; before that the store is not consulted (R94). -/
def rowOfKind (k : Option RequestKind) (s : State) (r : Request) : Bool :=
  readKind r.kind == k && !(s.hasRoom && (storeHit r s).isSome)

/-- Takes a request of kind k. -/
def takeKind (k : RequestKind) (own : Request → State → Verdict) (s : State) : State :=
  takeOldest (rowOfKind (some k) s) (execute k own) s

/-- R97: a request of an unknown kind is refused UNKNOWN_KIND with a reply, or discarded silently if broadcast. -/
def refuseUnknown (r : Request) (s : State) : State :=
  answer s.executor.address r .unknownKind [] s

/-- R102: the stored reply is added to the outgoing queue exactly as stored; the store is unchanged. -/
def answerFromStore (r : Request) (s : State) : State :=
  match storeHit r s with
  | some reply => s.enqueue reply .plain
  | none => s

/-! ### Own checks and effects, in the order of Chapter 7 -/

/-- R109, R110, R111. -/
def armOwn (r : Request) (s : State) : Verdict :=
  let target := threeAt r.payload 0
  let now := s.timing.number
  match s.plan.state with
  | .split | .refresh => .refuse .busy
  | .idle | .armed =>
    if atOrAfter target now.superframe && target != now.superframe then
      .run { s with plan := { s.plan with state := .armed, target := some target } }
        (threeBytes target ++ threeBytes now.superframe ++ [now.index.zeroExtend 8])
    else .refuse .stale

/-- R112, R113. -/
def assignOwn (r : Request) (s : State) : Verdict :=
  if identityAt r.payload 0 ≠ s.identity then .run s []
  else if assignNames r s then
    let t := State.setFlag { s with executor := { s.executor with address := byteAt r.payload 6 } } .addressChanged
    .run (t.enqueue (t.rollCallReturn scopeAssigned r.sequence true) .plain) []
  else .refuse .outOfRange

/-- R115. -/
def cancelOwn (_r : Request) (s : State) : Verdict :=
  match s.plan.state with
  | .armed =>
    .run { s with plan := { s.plan with state := .idle, target := none } } (threeBytes (s.plan.target.getD 0))
  | .idle => .refuse .notArmed
  | .split | .refresh => .refuse .busy

/-- R116. -/
def readChannelsOwn (r : Request) (s : State) : Verdict :=
  let first := (byteAt r.payload 0).toNat
  let count := (byteAt r.payload 1).toNat
  if first ≤ 15 ∧ 1 ≤ count ∧ count ≤ 16 ∧ first + count ≤ 16 then
    .run s ([byteOf first, byteOf count] ++
      (List.range count).flatMap fun i => channelEntryBytes s.chan (Fin.ofNat 16 (first + i)))
  else .refuse .outOfRange

/-- R118: the PORTS group. -/
def State.portCounters (s : State) : List Counter :=
  [s.headPort.misses, s.headPort.losses, s.tailPort.misses, s.tailPort.losses]

/-- R118: the MESSAGES group. -/
def State.messageCounters (s : State) : List Counter :=
  [s.receiver.sequenceErrors, s.receiver.lengthErrors, s.receiver.checkErrors, s.inbound.checkErrors,
    s.receiver.requestsDropped, s.inbound.passDropped, s.plan.lateChangeovers]

/-- R119: the PORTS group set to 0. -/
def State.clearPorts (s : State) : State :=
  { s with headPort := s.headPort.countersCleared, tailPort := s.tailPort.countersCleared }

/-- R119: the MESSAGES group set to 0. -/
def State.clearMessages (s : State) : State :=
  { s with
    receiver := { s.receiver with sequenceErrors := 0, lengthErrors := 0, checkErrors := 0, requestsDropped := 0 }
    inbound := { s.inbound with checkErrors := 0, passDropped := 0 }
    plan := { s.plan with lateChangeovers := 0 } }

/-- R119: the CHANNELS group set to 0. -/
def State.clearChannels (s : State) : State :=
  { s with chan := s.chan.countersCleared }

/-- R117, R118, R119: the counters of a group and the state with that group cleared; none for a group code of 03H to
FFH. -/
def counterGroup (code : Byte) (s : State) : Option (List Counter × State) :=
  if code = 0x00 then some (s.portCounters, s.clearPorts)
  else if code = 0x01 then some (s.messageCounters, s.clearMessages)
  else if code = 0x02 then some (s.chan.counters, s.clearChannels)
  else none

/-- R117, R118, R119. -/
def readCountersOwn (r : Request) (s : State) : Verdict :=
  let group := byteAt r.payload 0
  let clear := byteAt r.payload 1
  match counterGroup group s with
  | none => .refuse .outOfRange
  | some (counters, cleared) =>
    let data := group :: counters.flatMap twoBytes
    if clear = 0x00 then .run s data
    else if clear = 0x01 then .run cleared data
    else .refuse .outOfRange

/-- R120, R121. -/
def readPlanOwn (r : Request) (s : State) : Verdict :=
  let first := (byteAt r.payload 2).toNat
  let count := (byteAt r.payload 3).toNat
  match readBank (byteAt r.payload 0), readDirection (byteAt r.payload 1) with
  | some bank, some direction =>
    if planWindowValid first count then
      if bank = s.plan.draft ∧ s.plan.state = .refresh then .refuse .busy
      else
        .run s ([bank.code, s.plan.live.code, s.plan.state.code, direction.code, byteOf first, byteOf count] ++
          ((((s.plan.bank bank).plan direction).toList.drop first).take count).map PlanEntry.byte)
    else .refuse .outOfRange
  | _, _ => .refuse .outOfRange

/-- The countdown byte: the countdown remaining, 0 for no expiry or EMPTY (R123, R193). -/
def OutwardMessage.countdownByte (box : OutwardMessage) : Byte :=
  box.countdown.getD 0

/-- R137: a pass-through slot that is not FREE is occupied. -/
def PassSlot.occupied (x : PassSlot) : Bool :=
  x != .free

/-- R122, R123: the status record, 38 bytes. -/
def State.statusRecord (s : State) : List Byte :=
  sixBytes s.identity ++
    [s.executor.address, s.headPort.lock.code, s.tailPort.lock.code, flagByte s.headLostSeen] ++
    threeBytes s.timing.number.superframe ++
    [s.timing.number.index.zeroExtend 8, s.plan.live.code, s.plan.state.code, flagByte s.plan.target.isSome] ++
    threeBytes (s.plan.target.getD 0) ++
    [flagByte s.plan.applied.isSome] ++
    threeBytes ((s.plan.applied.map Applied.superframe).getD 0) ++
    [flagByte ((s.plan.applied.map Applied.late).getD false), byteOf s.receiver.requests.length,
      byteOf s.inbound.queue.length, byteOf s.nonNotices,
      byteOf (s.inbound.slots.toList.countP PassSlot.occupied), flagByte s.relay.outward.isSome,
      (s.relay.outward.map OutwardMessage.countdownByte).getD 0, s.relay.inward.code] ++
    noticeSetBytes s.notices.kinds ++ noticeSetBytes s.executor.noticeEnable ++
    [s.executor.relayTimeout, flagByte s.port.channelLock]

/-- R122. -/
def readStatusOwn (_r : Request) (s : State) : Verdict :=
  .run s s.statusRecord

/-- R124: the countdown loaded from a relay timeout, none for 0. -/
def loadedCountdown (timeout : Byte) : Option Byte :=
  if timeout = 0 then none else some timeout

/-- R124. -/
def relayOutOwn (r : Request) (s : State) : Verdict :=
  match s.relay.outward with
  | some _ => .refuse .full
  | none =>
    .run
      (State.setFlag
        { s with
          relay := { s.relay with
            outward := some { payload := r.payload, countdown := loadedCountdown s.executor.relayTimeout } } }
        .outwardArrived)
      [s.executor.relayTimeout]

/-- R126. -/
def releaseOwn (_r : Request) (s : State) : Verdict :=
  .run (State.setFlag { s with executor := { s.executor with address := 0 } } .addressChanged) []

/-- R128, R129. -/
def rollCallOwn (r : Request) (s : State) : Verdict :=
  if rollCallScopeValid r then
    if s.tailPort.lock = .locked then .run s []
    else
      .run (s.enqueue
        (s.rollCallReturn (byteAt r.payload 0) r.sequence (s.scopeAdmits (byteAt r.payload 0))) .plain) []
  else .refuse .outOfRange

/-- R131, with the tests of R66 and the lock test of R67 before them. -/
def writeChannelsOwn (r : Request) (s : State) : Verdict :=
  let count := (byteAt r.payload 0).toNat
  if s.port.channelLock then .refuse .locked
  else if 1 ≤ count ∧ count ≤ 16 then
    match readChannelEntries r.payload count with
    | none => .refuse .outOfRange
    | some entries =>
      if positionsDistinct entries then .run { s with chan := s.chan.tableWrite entries } [byteOf count]
      else .refuse .outOfRange
  else .refuse .outOfRange

/-- R133, with the window, entry and conflict tests of R41, R42 and R43. -/
def writePlanOwn (r : Request) (s : State) : Verdict :=
  let first := (byteAt r.payload 1).toNat
  let count := (byteAt r.payload 2).toNat
  match s.plan.state with
  | .armed => .refuse .frozen
  | .split | .refresh => .refuse .busy
  | .idle =>
    match readDirection (byteAt r.payload 0) with
    | none => .refuse .outOfRange
    | some direction =>
      if planWindowValid first count then
        match ((r.payload.drop 3).take count).mapM readPlanEntry with
        | none => .refuse .outOfRange
        | some entries =>
          let old := s.plan.bank s.plan.draft
          let new := old.setPlan direction ((old.plan direction).written first entries)
          if new.lawful then
            .run { s with plan := s.plan.setBank s.plan.draft new }
              [s.plan.draft.code, direction.code, byteOf first, byteOf count]
          else .refuse .conflict
      else .refuse .outOfRange

/-- R135. -/
def writeSettingsOwn (r : Request) (s : State) : Verdict :=
  let set := readTwo (byteAt r.payload 1) (byteAt r.payload 2)
  if set.extractLsb' 10 6 = 0 then
    .run
      { s with executor := { s.executor with
          relayTimeout := byteAt r.payload 0, noticeEnable := set.extractLsb' 0 10 } }
      ([byteAt r.payload 0] ++ noticeSetBytes (set.extractLsb' 0 10))
  else .refuse .outOfRange

/-! ### RESET NODE (R103, R104) -/

/-- R103: an individually addressed RESET NODE that passes its checks is answered, its reply is recorded, and the executor
enters RESET-WAIT. R104: a broadcast one is applied at once. -/
def executeResetNode (r : Request) (s : State) : State :=
  match generalCheck .resetNode r, r.addressing with
  | some status, _ => answer s.executor.address r status [] s
  | none, .broadcast => nodeResetState s
  | none, .individual =>
    let t := placeReply r (replyMessage s.executor.address r .ok []) .resetReply s
    { t with executor := { t.executor with state := .resetWait } }

end Sys2Proof.Machine
end

