-- ==== Sys2Proof/Machine/Requests.lean ====
section
/-! DEFINITION. The meanings of the commands that take a request from the request queue (R92): one for each request kind, one
for a Kind that is no request kind, and one for an answer from the last-reply store. -/

namespace Sys2Proof.Machine

/-- ARM_CHANGEOVER (R109, R110, R111). -/
def execArmChangeover (s : State) : Host.Outcome State Fault Refusal :=
  .next (takeKind .armChangeover armOwn s)

/-- ASSIGN (R112, R113). -/
def execAssign (s : State) : Host.Outcome State Fault Refusal :=
  .next (takeKind .assign assignOwn s)

/-- CANCEL_CHANGEOVER (R115). -/
def execCancelChangeover (s : State) : Host.Outcome State Fault Refusal :=
  .next (takeKind .cancelChangeover cancelOwn s)

/-- READ_CHANNELS (R116). -/
def execReadChannels (s : State) : Host.Outcome State Fault Refusal :=
  .next (takeKind .readChannels readChannelsOwn s)

/-- READ_COUNTERS (R117, R118, R119). -/
def execReadCounters (s : State) : Host.Outcome State Fault Refusal :=
  .next (takeKind .readCounters readCountersOwn s)

/-- READ_PLAN (R120, R121). -/
def execReadPlan (s : State) : Host.Outcome State Fault Refusal :=
  .next (takeKind .readPlan readPlanOwn s)

/-- READ_STATUS (R122, R123). -/
def execReadStatus (s : State) : Host.Outcome State Fault Refusal :=
  .next (takeKind .readStatus readStatusOwn s)

/-- RELAY_OUT (R124). -/
def execRelayOut (s : State) : Host.Outcome State Fault Refusal :=
  .next (takeKind .relayOut relayOutOwn s)

/-- RELEASE (R126). -/
def execRelease (s : State) : Host.Outcome State Fault Refusal :=
  .next (takeKind .release releaseOwn s)

/-- RESET_NODE (R103, R104). -/
def execResetNode (s : State) : Host.Outcome State Fault Refusal :=
  .next (takeOldest (rowOfKind (some .resetNode) s) executeResetNode s)

/-- ROLL_CALL (R128, R129). -/
def execRollCall (s : State) : Host.Outcome State Fault Refusal :=
  .next (takeKind .rollCall rollCallOwn s)

/-- WRITE_CHANNELS (R131). -/
def execWriteChannels (s : State) : Host.Outcome State Fault Refusal :=
  .next (takeKind .writeChannels writeChannelsOwn s)

/-- WRITE_PLAN (R133, R134). -/
def execWritePlan (s : State) : Host.Outcome State Fault Refusal :=
  .next (takeKind .writePlan writePlanOwn s)

/-- WRITE_SETTINGS (R135). -/
def execWriteSettings (s : State) : Host.Outcome State Fault Refusal :=
  .next (takeKind .writeSettings writeSettingsOwn s)

/-- UNKNOWN_KIND_REQUEST (R97). -/
def execUnknownKindRequest (s : State) : Host.Outcome State Fault Refusal :=
  .next (takeOldest (rowOfKind none s) refuseUnknown s)

/-- LAST_REPLY_ANSWER (R102). -/
def execLastReplyAnswer (s : State) : Host.Outcome State Fault Refusal :=
  .next (takeOldest (fun r => (storeHit r s).isSome) answerFromStore s)

end Sys2Proof.Machine
end

