-- ==== Sys2Proof/Machine/Trunk.lean ====
section
/-! DEFINITION. The meanings of the trunk and converter commands. -/

namespace Sys2Proof.Machine

/-- HEAD_SIDE_HEADER_ARRIVAL (R1, R7 to R13, R19): the header drives the head-side lock machine, and an accepted header,
the one that enters LOCKED, or a miss makes the outbound frame event. -/
def execHeadSideHeaderArrival (wire : WireFrame) (s : State) : Host.Outcome State Fault Refusal :=
  .next (headArrival wire s)

/-- TAIL_SIDE_HEADER_ARRIVAL (R1, R7, R8, R16, R17, R20): the header drives the tail-side lock machine. -/
def execTailSideHeaderArrival (wire : WireFrame) (s : State) : Host.Outcome State Fault Refusal :=
  .next (tailArrival wire s)

/-- FRAME_WATCHDOG_RUNS_OUT (R6): an absent header, which is a miss in LOCKED and a failed confirmation in CONFIRM. -/
def execFrameWatchdogRunsOut (port : TrunkPort) (s : State) : Host.Outcome State Fault Refusal :=
  .next (watchdogExpiry port s)

/-- FREE_RUN_TIMER_RUNS_OUT (R4). -/
def execFreeRunTimerRunsOut (s : State) : Host.Outcome State Fault Refusal :=
  .next (freeRunExpiry s)

/-- INBOUND_FRAME_SENT_REPORT (R14, R104, R149, R173). -/
def execInboundFrameSentReport (s : State) : Host.Outcome State Fault Refusal :=
  .next (sentReport s)

/-- CONVERTER_WORD_RECEIVED (R69). -/
def execConverterWordReceived (channel : Fin 8) (word : Sample) (s : State) : Host.Outcome State Fault Refusal :=
  .next (converterWord channel word s)

end Sys2Proof.Machine
end

