-- ==== Sys2Proof/Machine/Dispatch.lean ====
section
/-! DEFINITION. One arm for each command, in the order of spec/opcode_table.json. -/

namespace Sys2Proof.Machine

/-- The effect of a command on everything but the queue of waiting commands. -/
def exec (i : Instr) (s : State) : Host.Outcome State Fault Refusal :=
  match i with
  | .deviceReset => Sys2Proof.Machine.execDeviceReset s
  | .headSideHeaderArrival wire => Sys2Proof.Machine.execHeadSideHeaderArrival wire s
  | .tailSideHeaderArrival wire => Sys2Proof.Machine.execTailSideHeaderArrival wire s
  | .frameWatchdogRunsOut port => Sys2Proof.Machine.execFrameWatchdogRunsOut port s
  | .freeRunTimerRunsOut => Sys2Proof.Machine.execFreeRunTimerRunsOut s
  | .inboundFrameSentReport => Sys2Proof.Machine.execInboundFrameSentReport s
  | .converterWordReceived channel word => Sys2Proof.Machine.execConverterWordReceived channel word s
  | .armChangeover => Sys2Proof.Machine.execArmChangeover s
  | .assign => Sys2Proof.Machine.execAssign s
  | .cancelChangeover => Sys2Proof.Machine.execCancelChangeover s
  | .readChannels => Sys2Proof.Machine.execReadChannels s
  | .readCounters => Sys2Proof.Machine.execReadCounters s
  | .readPlan => Sys2Proof.Machine.execReadPlan s
  | .readStatus => Sys2Proof.Machine.execReadStatus s
  | .relayOut => Sys2Proof.Machine.execRelayOut s
  | .release => Sys2Proof.Machine.execRelease s
  | .resetNode => Sys2Proof.Machine.execResetNode s
  | .rollCall => Sys2Proof.Machine.execRollCall s
  | .writeChannels => Sys2Proof.Machine.execWriteChannels s
  | .writePlan => Sys2Proof.Machine.execWritePlan s
  | .writeSettings => Sys2Proof.Machine.execWriteSettings s
  | .unknownKindRequest => Sys2Proof.Machine.execUnknownKindRequest s
  | .lastReplyAnswer => Sys2Proof.Machine.execLastReplyAnswer s
  | .nodeReset => Sys2Proof.Machine.execNodeReset s
  | .noticeBuild => Sys2Proof.Machine.execNoticeBuild s
  | .relayInQueuing => Sys2Proof.Machine.execRelayInQueuing s
  | .relayExpiry => Sys2Proof.Machine.execRelayExpiry s
  | .status bytes edges => Sys2Proof.Machine.execStatus s bytes edges
  | .readOutward bytes edges => Sys2Proof.Machine.execReadOutward s bytes edges
  | .postInward bytes edges => Sys2Proof.Machine.execPostInward bytes edges s
  | .withdrawInward bytes edges => Sys2Proof.Machine.execWithdrawInward s bytes edges
  | .readFlags bytes edges => Sys2Proof.Machine.execReadFlags s bytes edges
  | .clearFlags bytes edges => Sys2Proof.Machine.execClearFlags bytes s edges
  | .setMask bytes edges => Sys2Proof.Machine.execSetMask bytes s edges
  | .setLock bytes edges => Sys2Proof.Machine.execSetLock s bytes edges
  | .clearLock bytes edges => Sys2Proof.Machine.execClearLock s bytes edges
  | .unknownCommand bytes edges => Sys2Proof.Machine.execUnknownCommand bytes s edges

end Sys2Proof.Machine
end

