-- ==== Sys2Proof/Safety.lean ====
section
/-! DEFINITION. What a safe run of the node keeps: the invariants that the spec states of its blocks. Every one holds at
State.reset, and every step keeps it (the statements of Certificates/Slice0 say so). -/

namespace Sys2Proof.Machine

/-- R2, R6, R7, R8: in SEARCH, and only there, the expected number is absent and the watchdog stopped; the miss count is
0 to 4, and below 4 in LOCKED. -/
def LockPort.consistent (p : LockPort) : Prop :=
  (p.lock = .search ↔ p.expected = none) ∧ (p.lock = .search ↔ p.watchdog = false) ∧ p.missCount ≤ 4 ∧
    (p.lock = .locked → p.missCount ≤ 3)

/-- R2 to R4, R6, R8: both ports are consistent; the free-run timer runs while the head-side port is not in LOCKED; and a
locked head-side port expects the successor of the last outbound frame event's number. -/
def PortsConsistent (s : State) : Prop :=
  s.headPort.consistent ∧ s.tailPort.consistent ∧ (s.timing.freeRun = true ↔ s.headPort.lock ≠ .locked) ∧
    (s.headPort.lock = .locked → s.headPort.expected = some s.timing.number.succ)

/-- R40, R46, R47: the fields of the changeover record are present as the table of R47 says, the old bank of SPLIT is the
draft bank, and both banks obey the output-target law. -/
def PlanConsistent (s : State) : Prop :=
  (s.plan.target.isSome = true ↔ s.plan.state = .armed) ∧
    (s.plan.state = .split → s.plan.oldBank = some s.plan.draft) ∧
    (s.plan.state ≠ .split → s.plan.oldBank = none) ∧
    (s.plan.state = .split ∨ s.plan.state = .refresh → s.plan.applied.isSome = true) ∧
    s.plan.bankA.lawful = true ∧ s.plan.bankB.lawful = true

/-- R64: a disabled input's current sample is zero, and a disabled output's holding value is zero with its written mark
clear. -/
def DisabledChannelsZero (s : State) : Prop :=
  (∀ k : Fin 8, s.chan.inputs[k].enabled = false → s.chan.inputs[k].sample = 0) ∧
    ∀ k : Fin 8, s.chan.outputs[k].enabled = false →
      s.chan.outputs[k].holding = 0 ∧ s.chan.outputs[k].written = false

/-- R87, R100, R144: at most 4 requests wait; at most 5 messages other than NOTICE messages and at most one NOTICE are in
the outgoing queue; and the last-reply store holds a REPLY. -/
def QueuesBounded (s : State) : Prop :=
  s.receiver.requests.length ≤ 4 ∧ s.nonNotices ≤ 5 ∧ (s.inbound.queue.countP OutEntry.isNotice) ≤ 1 ∧
    ∀ e, s.executor.lastReply = some e → e.reply.kind = kindReply

/-- R165, R152, R169, R171, R172: the node address is 0 to 62, the notice number and the relay-in number are 1 to 255, a
held countdown is 1 to 255, and the boxes hold payloads of 1 to 120 bytes. -/
def NumbersInRange (s : State) : Prop :=
  s.executor.address.toNat ≤ 62 ∧ s.inbound.noticeNumber ≠ 0 ∧ s.relay.relayInNumber ≠ 0 ∧
    (∀ box, s.relay.outward = some box →
      1 ≤ box.payload.length ∧ box.payload.length ≤ 120 ∧ box.countdown ≠ some 0) ∧
    ∀ p, s.relay.inward = .posted p ∨ s.relay.inward = .queued p ∨ s.relay.inward = .sending p →
      1 ≤ p.length ∧ p.length ≤ 120

/-- Whether the oldest outgoing message is the one being sent. -/
def InboundUnit.sendingOwn (u : InboundUnit) : Prop :=
  ∃ e, u.emission = some e ∧ e.source = .ownQueue

/-- R137, R138, R146: a slot is RECEIVING exactly when the inbound receiver fills it, COMPLETE exactly when it stands, once,
in the completion order, and SENDING exactly when the emission in progress is of it; an emission of the node's own has a
message in the outgoing queue. -/
def PassBufferConsistent (s : State) : Prop :=
  (∀ k : Fin 2, (∃ bytes, s.inbound.slots[k] = .receiving bytes) ↔ ∃ c n, s.inbound.rx = .receiving k c n) ∧
    (∀ k : Fin 2, (∃ m, s.inbound.slots[k] = .complete m) ↔ k ∈ s.inbound.order) ∧ s.inbound.order.Nodup ∧
    (∀ k : Fin 2, (∃ m, s.inbound.slots[k] = .sending m) ↔
      ∃ e, s.inbound.emission = some e ∧ e.source = .slot k) ∧
    (s.inbound.sendingOwn → s.inbound.queue ≠ [])

/-- How many messages of the outgoing queue end, when they leave it, as the given link says. -/
def InboundUnit.linked (u : InboundUnit) (link : OutLink) : Nat :=
  u.queue.countP fun e => e.link == link

/-- Whether the message being sent is the node's own and has the given link. -/
def InboundUnit.sendingLinked (u : InboundUnit) (link : OutLink) : Prop :=
  u.sendingOwn ∧ u.queue.head?.map OutEntry.link = some link

/-- R104, R168, R172, R173: the outgoing queue holds one message of the inward box in QUEUED, where it is not yet being sent,
and in SENDING, where it is, and none in EMPTY and POSTED; and it holds the recorded reply exactly in RESET-WAIT. -/
def LinksConsistent (s : State) : Prop :=
  (s.relay.inward = .empty ∨ (∃ p, s.relay.inward = .posted p) → s.inbound.linked .inwardBox = 0) ∧
    (∀ p, s.relay.inward = .queued p →
      s.inbound.linked .inwardBox = 1 ∧ ¬s.inbound.sendingLinked .inwardBox) ∧
    (∀ p, s.relay.inward = .sending p → s.inbound.linked .inwardBox = 1 ∧ s.inbound.sendingLinked .inwardBox) ∧
    (s.executor.state = .resetWait → s.inbound.linked .resetReply = 1) ∧
    (s.executor.state ≠ .resetWait → s.inbound.linked .resetReply = 0)

end Sys2Proof.Machine
end

