-- ==== Sys2Proof/Certificates/Slice0/Obligations.lean ====
section
/-! DEFINITION. The statements for the provers. Terms that several statements share stand first, in namespace
Sys2Proof.Claims; each is written from the spec's own words, so that a statement does not merely repeat a meaning. -/

namespace Sys2Proof.Claims

open Sys2Proof.Machine

/-- An IDLE chunk that the node builds: tag 00H and content bytes 00H (R190). -/
def idleChunk : Chunk :=
  { tag := 0x00, content := Vector.replicate 8 0x00 }

/-- A frame that the node makes: every slot vacant, an IDLE chunk, a clear second flag position (R4, R10, R16, R18). -/
def madeFrame (n : FrameNo) (headLost : Bool) : Frame :=
  { number := n, headLost := headLost, spare := false, chunk := idleChunk, slots := Vector.replicate 32 none }

/-- A port after it has taken number n as accepted (R8). -/
def portAccepted (p : LockPort) (n : FrameNo) : LockPort :=
  { p with lock := .locked, missCount := 0, expected := some n.succ, watchdog := true }

/-- A port after a miss at number n that leaves it in LOCKED (R8). -/
def portMissed (p : LockPort) (n : FrameNo) : LockPort :=
  { p with misses := bump p.misses, missCount := p.missCount + 1, expected := some n.succ }

/-- A port after its fourth miss (R8, R11, R17). -/
def portLost (p : LockPort) : LockPort :=
  { p with lock := .search, misses := bump p.misses, losses := bump p.losses, missCount := 4, expected := none,
           watchdog := false }

/-- A port after a failed confirmation (R7). -/
def portUnconfirmed (p : LockPort) : LockPort :=
  { p with lock := .search, expected := none, watchdog := false }

/-- R13: what a good header does to HEAD_LOST-seen and the local flag. -/
def headLostNoted (s : State) (flag : Bool) : State :=
  { s with
    headLostSeen := flag
    port := if flag then s.port.withFlag .headLost else s.port }

/-- A tail-side miss gives up the message being received and ends a discard (R142). -/
def receptionEnded (u : InboundUnit) : InboundUnit :=
  { u with
    rx := .idle
    slots := match u.rx with
      | .receiving k _ _ => u.slots.set k .free
      | _ => u.slots }

/-- A frame whose header is a miss at number n of a port: a bad header, or a good one out of sequence. -/
def MissingFrame (w : WireFrame) (n : FrameNo) : Prop :=
  ∀ f, receivedFrame w = some f → f.number ≠ n

/-- The state that a head-side arrival leaves before the port's own outcome. -/
def arrivalNoted (s : State) (w : WireFrame) : State :=
  match receivedFrame w with
  | none => s
  | some f => headLostNoted s f.headLost

/-- A FIRST or ONLY chunk gives up the message that was being assembled, and counts one sequence error for it (R81). -/
def partialGivenUp (s : State) : State :=
  match s.receiver.assembler with
  | .idle => s
  | .assembling _ _ _ =>
    { s with receiver := { s.receiver with
        assembler := .idle, sequenceErrors := bump s.receiver.sequenceErrors } }

/-! ### Requests -/

/-- The command that takes a request of a kind. -/
def commandOf : RequestKind → Instr
  | .armChangeover => .armChangeover
  | .assign => .assign
  | .cancelChangeover => .cancelChangeover
  | .readChannels => .readChannels
  | .readCounters => .readCounters
  | .readPlan => .readPlan
  | .readStatus => .readStatus
  | .relayOut => .relayOut
  | .release => .release
  | .resetNode => .resetNode
  | .rollCall => .rollCall
  | .writeChannels => .writeChannels
  | .writePlan => .writePlan
  | .writeSettings => .writeSettings

/-- R98: the payload lengths that the kinds allow. -/
def LengthAllowed (k : RequestKind) (payload : List Byte) : Prop :=
  match k with
  | .armChangeover | .writeSettings => payload.length = 3
  | .assign => payload.length = 7
  | .cancelChangeover | .readStatus | .release | .resetNode => payload = []
  | .readChannels | .readCounters => payload.length = 2
  | .readPlan => payload.length = 4
  | .relayOut => 1 ≤ payload.length ∧ payload.length ≤ 120
  | .rollCall => payload.length = 1
  | .writeChannels => ∃ count entries, payload = count :: entries ∧ entries.length = 5 * count.toNat
  | .writePlan => ∃ d first count entries, payload = d :: first :: count :: entries ∧ entries.length = count.toNat

/-- R102: the last-reply store does not answer the request. -/
def NotStored (r : Request) (s : State) : Prop :=
  r.sequence ≠ 0 → ∀ e, s.executor.lastReply = some e → ¬(e.kind = r.kind ∧ e.sequence = r.sequence)

/-- The executor can execute its oldest request r now: it takes requests, r has the Kind code given, and an individually
addressed r finds room in the outgoing queue and no stored reply (R92, R94, R102). -/
def Takes (kind : Byte) (s : State) (r : Request) (rest : List Request) : Prop :=
  s.receiver.requests = r :: rest ∧ s.executor.state ≠ .resetWait ∧ r.kind = kind ∧
    (r.addressing = .individual → s.nonNotices < 5 ∧ NotStored r s)

/-- The oldest request has left the queue and the executor is READY (R92). -/
def taken (s : State) (rest : List Request) : State :=
  { s with
    receiver := { s.receiver with requests := rest }
    executor := { s.executor with state := .ready } }

/-- The fields of a REPLY (R100). -/
def IsReply (source : Byte) (r : Request) (status : Byte) (data : List Byte) (m : Message) : Prop :=
  m.destination = 0 ∧ m.source = source ∧ m.kind = 0x80 ∧ m.sequence = r.sequence ∧
    m.payload = status :: r.kind :: data ∧ m.check = messageCheck m.body

/-- A reply has been added to the outgoing queue, and the last-reply store has taken it unless the Sequence is 0 (R100,
R101). -/
def withReply (r : Request) (m : Message) (link : OutLink) (t : State) : State :=
  { t with
    inbound := { t.inbound with queue := t.inbound.queue ++ [{ message := m, link := link }] }
    executor := { t.executor with
      lastReply := if r.sequence = 0 then t.executor.lastReply
        else some { kind := r.kind, sequence := r.sequence, reply := m } } }

/-- The command ends the request r with the effect t: silently for a broadcast, and for an individually addressed request
with a reply under the address that stood before (R96, R100, R101). -/
def Ends (c : Instr) (s : State) (r : Request) (status : Byte) (data : List Byte) (t : State) : Prop :=
  (r.addressing = .broadcast → exec c s = .next t) ∧
    (r.addressing = .individual →
      ∃ m, IsReply s.executor.address r status data m ∧ exec c s = .next (withReply r m .plain t))

/-- The own record of a node (R158): identity, address, hop at joining, and the flags TAIL, ARMED, LOCAL_LOCK. -/
def ownRecord (s : State) (hop : Byte) : List Byte :=
  sixBytes s.identity ++
    [s.executor.address, hop,
      (if s.tailPort.lock = .locked then 0x00 else 0x01) ||| (if s.plan.state = .armed then 0x02 else 0x00) |||
        (if s.port.channelLock then 0x04 else 0x00)]

/-- A ROLL-CALL RETURN that the node builds (R113, R129, R157). -/
def IsReturn (source sequence : Byte) (payload : List Byte) (m : Message) : Prop :=
  m.destination = 0 ∧ m.source = source ∧ m.kind = 0x82 ∧ m.sequence = sequence ∧ m.payload = payload ∧
    m.check = messageCheck m.body

/-- A message has been added to the outgoing queue and means nothing to another block when it leaves. -/
def queued (m : Message) (t : State) : State :=
  { t with inbound := { t.inbound with queue := t.inbound.queue ++ [{ message := m, link := .plain }] } }

/-- A local flag has been set. -/
def flagged (t : State) (f : LocalFlag) : State :=
  { t with port := t.port.withFlag f }

/-- The transaction of the local control port replaced. -/
def inTransaction (x : Transaction) (t : State) : State :=
  { t with port := { t.port with transaction := x } }

/-- LDO has carried one more byte. -/
def ldoCarried (b : Byte) (t : State) : State :=
  { t with wires := { t.wires with ldo := t.wires.ldo ++ [b] } }

/-- A command has been taken at the byte shifted in, while LDO carried 00H; LDO shifts out this response from the next byte
on (R178). -/
def answered (code : Byte) (response : List Byte) (t : State) : State :=
  inTransaction (.responding code response) (ldoCarried 0x00 t)

/-- The row of a local command, and for none the row of a byte that names no command. -/
def localRow (row : Option LocalCommand) (bytes : List Byte) (edges : LselEdges) : Instr :=
  match row with
  | some .status => .status bytes edges
  | some .readOutward => .readOutward bytes edges
  | some .postInward => .postInward bytes edges
  | some .withdrawInward => .withdrawInward bytes edges
  | some .readFlags => .readFlags bytes edges
  | some .clearFlags => .clearFlags bytes edges
  | some .setMask => .setMask bytes edges
  | some .setLock => .setLock bytes edges
  | some .clearLock => .clearLock bytes edges
  | none => .unknownCommand bytes edges

/-- The command byte of the transaction that a stretch of bytes belongs to: the first byte after LSEL was asserted. -/
def CommandByte (s : State) (bytes : List Byte) (edges : LselEdges) (code : Byte) : Prop :=
  match s.port.transaction with
  | .closed => edges.asserted = true ∧ ∃ rest, bytes = code :: rest
  | .collecting before => ∃ rest, before ++ bytes = code :: rest
  | .responding c _ => code = c
  | .barred => False

/-- The stretch belongs to the row: a command byte, where there is one, names the row's command. -/
def OfRow (row : Option LocalCommand) (s : State) (bytes : List Byte) (edges : LselEdges) : Prop :=
  ∀ code, CommandByte s bytes edges code → readLocalCommand code = row

/-- The effect of a chunk on the inbound receiver, for a frame that was received (R20, stage 2). -/
def handedOn (received : Option Chunk) (s : State) : State :=
  match received with
  | none => s
  | some c => inboundReceive c s

/-- The boundary actions of an outbound frame event of number n, at index 0 alone (R19, stage 2). -/
def boundaryTaken (n : FrameNo) (s : State) : State :=
  if n.index = 0 then relayBoundary n.superframe (refreshCompletion (changeoverCheck n.superframe s)) else s

/-- The chunks of a message, fed one after another to the message assembler. -/
def assembled (m : Message) (s : State) : State :=
  (List.range m.chunks).foldl (fun t k => assembleChunk (m.chunk k) t) s

/-- The chunks of a message, fed one after another to the inbound receiver. -/
def receivedWhole (m : Message) (s : State) : State :=
  (List.range m.chunks).foldl (fun t k => inboundReceive (m.chunk k) t) s

/-- The state with one inbound check error counted, the inbound receiver and the slots as given (R143). -/
def inboundError (rx : InboundReceiver) (slots : Vector PassSlot 2) (s : State) : State :=
  { s with inbound := { s.inbound with rx := rx, slots := slots, checkErrors := bump s.inbound.checkErrors } }

/-- A tag byte that is read as IDLE: 00H, and 05H to FFH, which name no tag (R77, R190). -/
def ReadAsIdle (tag : Byte) : Prop :=
  tag = 0x00 ∨ 5 ≤ tag.toNat

/-- A payload length that does not fit the tag of its first chunk: ONLY (04H) with 2 or more, FIRST (01H) with 0 or 1, and
either above 120 (R79, R139). -/
def Misfit (c : Chunk) : Prop :=
  (c.tag = 0x04 ∧ 2 ≤ c.content[4].toNat) ∨
    (c.tag = 0x01 ∧ (c.content[4].toNat ≤ 1 ∨ 121 ≤ c.content[4].toNat))

/-- The detail of a pending notice kind, by its kind code, as an item carries it (Chapter 11, "Notice Items"). -/
def noticeDetail (n : PendingNotices) : Nat → Option (List Byte)
  | 0 => n.headLost.map threeBytes
  | 1 => n.headRestored.map threeBytes
  | 2 => n.tailLost.map threeBytes
  | 3 => n.tailRestored.map threeBytes
  | 4 => n.changeoverDone.map fun a => threeBytes a.superframe ++ [if a.late then 0x01 else 0x00]
  | 5 => n.collision.map fun inputs => [inputs]
  | 6 => n.requestDropped.map fun d =>
    [d.kind, d.sequence, if d.addressing = .individual then 0x00 else 0x01]
  | 7 => n.passDropped.map fun d => [d.source, d.kind, d.sequence]
  | 8 => n.relayExpired.map fun d => threeBytes d.superframe ++ [d.length]
  | 9 => n.relayDelivered.map fun length => [length]
  | _ => none

/-- The head-side port has reported its oldest frame f as sent. -/
def reported (s : State) (f : Frame) (rest : List Frame) : State :=
  { s with wires := { s.wires with headTx := rest, headSent := s.wires.headSent ++ [f] } }

/-- The message that the emission in progress sends. -/
def Emits (u : InboundUnit) (e : Emission) (m : Message) : Prop :=
  match e.source with
  | .slot k => u.slots[k] = .sending m
  | .ownQueue => ∃ x rest, u.queue = x :: rest ∧ x.message = m

/-- How often an event is counted: the saturating counter moved n times (00, "Counters"). -/
def countedTimes : Nat → Counter → Counter
  | 0, c => c
  | n + 1, c => countedTimes n (bump c)

/-- How many entries of a plan are FILL entries of input k that find their slot occupied. -/
def yields (plan : Plan) (slots : Slots) (k : Fin 8) : Nat :=
  (List.finRange 32).countP fun j =>
    plan[j].action == .fill && plan[j].channel == k && slots[j].isSome

end Sys2Proof.Claims

open Sys2Proof Sys2Proof.Machine Sys2Proof.Claims

/-! ### The block as a whole -/

/-- The command at the front of the queue is executed on the state with the rest of the queue, and an empty queue idles.
The queue is the model's (notes/assumptions/1.md). -/
def Obligations.StepRunsFrontCommand : Prop :=
  ∀ s : State,
    (∀ c rest, s.pending = c :: rest → step s = exec c { s with pending := rest }) ∧
      (s.pending = [] → step s = .next s)

/-- R166: no command changes the identity. That every command completes is the form of exec; that none touches the queue of
waiting commands, the device reset included, is the model's choice, because the queue is the model's own
(notes/assumptions/1.md, notes/assumptions/20.md). -/
def Obligations.EveryCommandKeepsIdentityAndQueue : Prop :=
  ∀ (c : Instr) (s : State), ∃ t, exec c s = .next t ∧ t.identity = s.identity ∧ t.pending = s.pending

/-- The device reset sets every block to its device-reset value (R5, R21, R45, R61, R75, R90, R108, R155, R176, R185), and
ends a transaction in progress, after which the port waits for LSEL to be released (R185). -/
def Obligations.DeviceResetClearsEveryBlock : Prop :=
  ∀ s : State, ∃ t, exec .deviceReset s = .next t ∧
    t.identity = s.identity ∧ t.timing.number = { superframe := 0, index := 0 } ∧ t.timing.freeRun = true ∧
    (∀ p, p = t.headPort ∨ p = t.tailPort →
      p.lock = .search ∧ p.missCount = 0 ∧ p.expected = none ∧ p.watchdog = false ∧ p.misses = 0 ∧ p.losses = 0) ∧
    t.headLostSeen = false ∧
    (∀ (d : Direction) (j : Fin 32), (t.plan.bankA.plan d)[j] = { action := .pass, channel := 0 } ∧
      (t.plan.bankB.plan d)[j] = { action := .pass, channel := 0 }) ∧
    t.plan.live = .a ∧ t.plan.state = .idle ∧ t.plan.target = none ∧ t.plan.applied = none ∧ t.plan.oldBank = none ∧
    t.plan.lateChangeovers = 0 ∧
    (∀ k : Fin 8, t.chan.inputs[k] = { enabled := false, source := .port, constant := 0, sample := 0, ramp := 0,
                                       collisions := 0, word := 0 } ∧
      t.chan.outputs[k] = { enabled := false, policy := .zero, holding := 0, written := false, vacancies := 0 }) ∧
    t.chan.converterFrame = none ∧
    t.receiver.assembler = .idle ∧ t.receiver.requests = [] ∧
    (t.receiver.sequenceErrors = 0 ∧ t.receiver.lengthErrors = 0 ∧ t.receiver.checkErrors = 0 ∧
      t.receiver.requestsDropped = 0) ∧
    t.executor.state = .ready ∧ t.executor.address = 0 ∧ t.executor.lastReply = none ∧ t.executor.relayTimeout = 16 ∧
    (∀ kind < 10, t.executor.noticeEnable.getLsbD kind = true) ∧
    (∀ k : Fin 2, t.inbound.slots[k] = .free) ∧ t.inbound.rx = .idle ∧ t.inbound.queue = [] ∧
    t.inbound.emission = none ∧ t.inbound.lastWinner = .ownQueue ∧ t.inbound.noticeNumber = 1 ∧
    t.inbound.checkErrors = 0 ∧ t.inbound.passDropped = 0 ∧
    t.notices.kinds = 0 ∧ t.relay.outward = none ∧ t.relay.inward = .empty ∧ t.relay.relayInNumber = 1 ∧
    t.port.flags = 0 ∧ t.port.mask = 0 ∧ t.lint = false ∧ t.port.channelLock = false ∧
    (s.port.transaction = .closed → t.port.transaction = .closed) ∧
    (s.port.transaction ≠ .closed → t.port.transaction = .barred)

/-- R105 and R106: what a node reset keeps and what it sets to its device-reset value. -/
def Obligations.NodeResetKeepsAndClears : Prop :=
  ∀ s : State, ∃ t, exec .nodeReset s = .next t ∧
    t.identity = s.identity ∧ t.executor.address = s.executor.address ∧
    t.headPort = { s.headPort with misses := 0, losses := 0 } ∧
    t.tailPort = { s.tailPort with misses := 0, losses := 0 } ∧
    t.headLostSeen = s.headLostSeen ∧ t.timing = s.timing ∧
    t.inbound.slots = s.inbound.slots ∧ t.inbound.order = s.inbound.order ∧ t.inbound.rx = s.inbound.rx ∧
    t.inbound.lastWinner = s.inbound.lastWinner ∧ t.inbound.emission = s.inbound.emission ∧
    t.port = { s.port with flags := s.port.flags ||| 0x40 } ∧ t.wires = s.wires ∧
    (∀ k : Fin 8, t.chan.inputs[k].word = s.chan.inputs[k].word) ∧ t.chan.converterFrame = s.chan.converterFrame ∧
    t.plan = State.reset.plan ∧
    (∀ k : Fin 8, t.chan.inputs[k] = { State.reset.chan.inputs[k] with word := s.chan.inputs[k].word } ∧
      t.chan.outputs[k] = State.reset.chan.outputs[k]) ∧
    t.receiver = State.reset.receiver ∧
    t.executor = { State.reset.executor with address := s.executor.address } ∧
    (s.inbound.sendingOwn → t.inbound.queue.map OutEntry.message = (s.inbound.queue.map OutEntry.message).take 1) ∧
    (¬s.inbound.sendingOwn → t.inbound.queue = []) ∧
    t.inbound.noticeNumber = 1 ∧ t.inbound.checkErrors = 0 ∧ t.inbound.passDropped = 0 ∧
    t.notices.kinds = 0 ∧ t.relay = State.reset.relay

/-! ### Ports (Chapter 1) -/

/-- R2: 64 successors lead to the same index of the next superframe, with the wrap after 16,777,215. -/
def Obligations.SixtyFourSuccessorsMakeASuperframe : Prop :=
  ∀ n : FrameNo, (FrameNo.succ^[64]) n = { superframe := n.superframe + 1, index := n.index }

/-- R9, R12, R13: a good, in-sequence header at the head-side port hands its frame on as the outbound frame event; in
LOCKED it is accepted, and in CONFIRM the port enters LOCKED, the free-run timer stops and HEAD_RESTORED is pending. -/
def Obligations.HeadSideTakesInSequenceFrame : Prop :=
  ∀ (s : State) (w : WireFrame) (f : Frame), receivedFrame w = some f → s.headPort.expected = some f.number →
    (s.headPort.lock = .locked →
      exec (.headSideHeaderArrival w) s =
        .next (outboundFrameEvent f { headLostNoted s f.headLost with headPort := portAccepted s.headPort f.number })) ∧
    (s.headPort.lock = .confirm →
      exec (.headSideHeaderArrival w) s =
        .next (outboundFrameEvent f
          { headLostNoted s f.headLost with
            headPort := portAccepted s.headPort f.number
            timing := { s.timing with freeRun := false }
            notices := { s.notices with headRestored := some f.number.superframe } }))

/-- R8, R10, R11: a bad or out-of-sequence header, or an absent one, is a miss of a locked head-side port. Below the
fourth a substitute frame takes the missing frame's place; the fourth takes the port to SEARCH, and a free-run frame takes
the place. -/
def Obligations.HeadSideMiss : Prop :=
  ∀ (s : State) (n : FrameNo), s.headPort.lock = .locked → s.headPort.expected = some n →
    (s.headPort.missCount < 3 →
      (∀ w, MissingFrame w n → exec (.headSideHeaderArrival w) s =
        .next (outboundFrameEvent (madeFrame n false)
          { arrivalNoted s w with headPort := portMissed s.headPort n })) ∧
      (s.headPort.watchdog = true → exec (.frameWatchdogRunsOut .headSide) s =
        .next (outboundFrameEvent (madeFrame n false) { s with headPort := portMissed s.headPort n }))) ∧
    (s.headPort.missCount = 3 →
      (∀ w, MissingFrame w n → exec (.headSideHeaderArrival w) s =
        .next (outboundFrameEvent (madeFrame n true)
          { flagged (arrivalNoted s w) .headLost with
            headPort := portLost s.headPort
            timing := { s.timing with freeRun := true }
            notices := { s.notices with headLost := some n.superframe } })) ∧
      (s.headPort.watchdog = true → exec (.frameWatchdogRunsOut .headSide) s =
        .next (outboundFrameEvent (madeFrame n true)
          { flagged s .headLost with
            headPort := portLost s.headPort
            timing := { s.timing with freeRun := true }
            notices := { s.notices with headLost := some n.superframe } })))

/-- R16, R17: a good, in-sequence header at the tail-side port makes its frame an inbound frame event with its chunk; in
CONFIRM the port enters LOCKED and TAIL_RESTORED is pending. -/
def Obligations.TailSideTakesInSequenceFrame : Prop :=
  ∀ (s : State) (w : WireFrame) (f : Frame), receivedFrame w = some f → s.tailPort.expected = some f.number →
    (s.tailPort.lock = .locked →
      exec (.tailSideHeaderArrival w) s =
        .next (inboundFrameEvent f (some f.chunk) { s with tailPort := portAccepted s.tailPort f.number })) ∧
    (s.tailPort.lock = .confirm →
      exec (.tailSideHeaderArrival w) s =
        .next (inboundFrameEvent f (some f.chunk)
          { s with
            tailPort := portAccepted s.tailPort f.number
            notices := { s.notices with tailRestored := some f.number.superframe } }))

/-- R8, R16, R17, R142: a miss of a locked tail-side port gives up the message being received. Below the fourth a substitute
inbound frame takes the missing frame's place; the fourth takes the port to SEARCH, TAIL_LOST is pending, and no frame is
made. -/
def Obligations.TailSideMiss : Prop :=
  ∀ (s : State) (n : FrameNo), s.tailPort.lock = .locked → s.tailPort.expected = some n →
    (s.tailPort.missCount < 3 →
      (∀ w, MissingFrame w n → exec (.tailSideHeaderArrival w) s =
        .next (inboundFrameEvent (madeFrame n false) none
          { s with tailPort := portMissed s.tailPort n, inbound := receptionEnded s.inbound })) ∧
      (s.tailPort.watchdog = true → exec (.frameWatchdogRunsOut .tailSide) s =
        .next (inboundFrameEvent (madeFrame n false) none
          { s with tailPort := portMissed s.tailPort n, inbound := receptionEnded s.inbound }))) ∧
    (s.tailPort.missCount = 3 →
      (∀ w, MissingFrame w n → exec (.tailSideHeaderArrival w) s =
        .next { s with
          tailPort := portLost s.tailPort
          inbound := receptionEnded s.inbound
          notices := { s.notices with tailLost := some n.superframe } }) ∧
      (s.tailPort.watchdog = true → exec (.frameWatchdogRunsOut .tailSide) s =
        .next { s with
          tailPort := portLost s.tailPort
          inbound := receptionEnded s.inbound
          notices := { s.notices with tailLost := some n.superframe } }))

/-- R6, R7, R13: in SEARCH a bad header changes nothing and a good one moves the port to CONFIRM; in CONFIRM a bad header,
one out of sequence or an absent one returns the port to SEARCH; no frame is handed on. -/
def Obligations.PortsHuntAndConfirm : Prop :=
  ∀ (s : State) (w : WireFrame),
    (s.headPort.lock = .search → receivedFrame w = none → exec (.headSideHeaderArrival w) s = .next s) ∧
    (s.tailPort.lock = .search → receivedFrame w = none → exec (.tailSideHeaderArrival w) s = .next s) ∧
    (∀ f, s.headPort.lock = .search → receivedFrame w = some f → exec (.headSideHeaderArrival w) s =
      .next { headLostNoted s f.headLost with headPort :=
        { s.headPort with lock := .confirm, expected := some f.number.succ, watchdog := true } }) ∧
    (∀ f, s.tailPort.lock = .search → receivedFrame w = some f → exec (.tailSideHeaderArrival w) s =
      .next { s with tailPort :=
        { s.tailPort with lock := .confirm, expected := some f.number.succ, watchdog := true } }) ∧
    (∀ n, s.headPort.lock = .confirm → s.headPort.expected = some n →
      (MissingFrame w n → exec (.headSideHeaderArrival w) s =
        .next { arrivalNoted s w with headPort := portUnconfirmed s.headPort }) ∧
      (s.headPort.watchdog = true → exec (.frameWatchdogRunsOut .headSide) s =
        .next { s with headPort := portUnconfirmed s.headPort })) ∧
    (∀ n, s.tailPort.lock = .confirm → s.tailPort.expected = some n →
      (MissingFrame w n → exec (.tailSideHeaderArrival w) s =
        .next { s with tailPort := portUnconfirmed s.tailPort }) ∧
      (s.tailPort.watchdog = true → exec (.frameWatchdogRunsOut .tailSide) s =
        .next { s with tailPort := portUnconfirmed s.tailPort }))

/-- R4: the free-run timer, while it runs, originates the successor of counter and index with HEAD_LOST set, every slot
vacant and an IDLE chunk. -/
def Obligations.FreeRunTimerOriginatesFrame : Prop :=
  ∀ s : State, s.timing.freeRun = true →
    exec .freeRunTimerRunsOut s = .next (outboundFrameEvent (madeFrame s.timing.number.succ true) s)

/-! ### Frame events (R18 to R20) -/

/-- R3, R15, R19, R69, R78, R79: an outbound frame event moves the numbering to its frame's number, and sends that frame through
the tail-side port with its number, flags and chunk unchanged and its slots worked by the live bank's outbound plan, as the
boundary actions left it, with the samples of the exchange of the same event. The exchange starts a converter frame, whether
or not one was in progress, and marks it on CFS, once in the event and before any word of it is shifted out. The event feeds the chunk to the assembler, and the
slot engine works outputs, counters and the COLLISION detail on the channels that the exchange left. It changes no port.
With the tail-side port in LOCKED it changes nothing of the inbound service unit and sends no inbound frame. -/
def Obligations.OutboundEventNumbersAndSends : Prop :=
  ∀ (f : Frame) (s : State),
    let t := outboundFrameEvent f s
    let plan := (t.plan.bank t.plan.live).outbound
    let worked := slotEffects plan f.slots { s with chan := s.chan.exchange }
    t.timing = { s.timing with number := f.number } ∧ t.headPort = s.headPort ∧ t.tailPort = s.tailPort ∧
    t.headLostSeen = s.headLostSeen ∧ t.executor = s.executor ∧ t.wires.headSent = s.wires.headSent ∧
    t.port.mask = s.port.mask ∧ t.port.channelLock = s.port.channelLock ∧
    t.wires.tailSent = s.wires.tailSent ++ [{ f with slots := slotsAfter plan f.slots s.chan.exchange }] ∧
    t.chan.converterFrame = s.chan.exchange.converterFrame ∧
    t.wires.converterSent = s.wires.converterSent ++ [.frameStart] ∧
    (∀ k : Fin 8, t.chan.inputs[k].sample = s.chan.exchange.inputs[k].sample ∧
      t.chan.inputs[k].ramp = s.chan.exchange.inputs[k].ramp) ∧
    t.receiver = (assembleChunk f.chunk s).receiver ∧
    t.notices.requestDropped = (assembleChunk f.chunk s).notices.requestDropped ∧
    t.notices.collision = worked.notices.collision ∧
    (s.tailPort.lock = .locked →
      t.chan = worked.chan ∧ t.inbound = s.inbound ∧ t.wires.headTx = s.wires.headTx)

/-- R18: while the tail-side port is not in LOCKED, an outbound frame event is what it would be with the port in LOCKED,
followed by the inbound frame event of one originated frame: the outbound frame's number, HEAD_LOST clear, every slot
vacant, no received chunk. Exactly one inbound frame is sent, with that number and HEAD_LOST clear. -/
def Obligations.OutboundEventOriginatesInboundFrame : Prop :=
  ∀ (f : Frame) (s : State), s.tailPort.lock ≠ .locked →
    (∀ p : LockPort, p.lock = .locked →
      outboundFrameEvent f s = inboundFrameEvent (madeFrame f.number false) none
        { outboundFrameEvent f { s with tailPort := p } with tailPort := s.tailPort }) ∧
    ∃ g : Frame, (outboundFrameEvent f s).wires.headTx = s.wires.headTx ++ [g] ∧ g.number = f.number ∧
      g.headLost = false ∧ g.spare = false

/-- R19 stage 2, R50, R51, R55, R58, R169: at index 0 the plan store and the relay unit act on the boundary, with their local
flags and notices, and at any other index they do not. With the tail-side port in LOCKED nothing more happens to plan store
and relay unit; otherwise the frame originated in the same step ends a SPLIT whose applied superframe it has reached. -/
def Obligations.BoundaryActionsAtIndexZeroOnly : Prop :=
  ∀ (f : Frame) (s : State),
    let t := outboundFrameEvent f s
    let b := boundaryTaken f.number s
    t.port = b.port ∧ t.notices.changeoverDone = b.notices.changeoverDone ∧
    t.notices.relayExpired = b.notices.relayExpired ∧ t.relay.outward = b.relay.outward ∧
    t.relay.relayInNumber = b.relay.relayInNumber ∧
    (s.tailPort.lock = .locked → t.plan = b.plan ∧ t.relay = b.relay) ∧
    (s.tailPort.lock ≠ .locked →
      (b.plan.state ≠ .split → t.plan = b.plan) ∧
      (∀ a, b.plan.state = .split → b.plan.applied = some a →
        ((f.number.superframe - a.superframe).toNat < 8388608 →
          t.plan = { b.plan with state := .refresh, oldBank := none }) ∧
        (8388608 ≤ (f.number.superframe - a.superframe).toNat → t.plan = b.plan))) ∧
    (f.number.index ≠ 0 → b = s)

/-- R20, R38, R39, R54, R57: an inbound frame is worked by the live bank, except that in SPLIT a frame numbered before the
applied superframe is worked by the old bank; the first at or after it ends SPLIT. The slot engine works the channels and
the COLLISION detail by that bank's inbound plan; the chunk of a received frame, and of no other, is handed to the inbound
receiver; and the arbiter, which comes after it, supplies the chunk sent. The event moves no numbering and no port, and sends
one frame with the frame's number and flags. It causes no converter exchange, so it marks nothing on CFS. -/
def Obligations.InboundEventSelectsBankAndSends : Prop :=
  ∀ (f : Frame) (received : Option Chunk) (s : State),
    let t := inboundFrameEvent f received s
    let v := handedOn received s
    t.timing = s.timing ∧ t.headPort = s.headPort ∧ t.tailPort = s.tailPort ∧ t.receiver = s.receiver ∧
    t.executor = s.executor ∧ t.port = s.port ∧ t.wires.tailSent = s.wires.tailSent ∧
    t.wires.headSent = s.wires.headSent ∧ t.wires.converterSent = s.wires.converterSent ∧
    t.chan.converterFrame = s.chan.converterFrame ∧ t.plan.bankA = s.plan.bankA ∧ t.plan.bankB = s.plan.bankB ∧
    t.plan.live = s.plan.live ∧ t.plan.applied = s.plan.applied ∧
    t.inbound = (arbitrate v).2.inbound ∧ t.relay = (arbitrate v).2.relay ∧
    t.notices.passDropped = v.notices.passDropped ∧
    ∃ bank : Bank,
      t.wires.headTx = s.wires.headTx ++
        [{ f with chunk := (arbitrate v).1, slots := slotsAfter bank.inbound f.slots s.chan }] ∧
      t.chan = (slotEffects bank.inbound f.slots s).chan ∧
      t.notices.collision = (slotEffects bank.inbound f.slots s).notices.collision ∧
      (s.plan.state ≠ .split → bank = s.plan.bank s.plan.live ∧ t.plan = s.plan) ∧
      (∀ a old, s.plan.state = .split → s.plan.applied = some a → s.plan.oldBank = some old →
        ((f.number.superframe - a.superframe).toNat < 8388608 →
          bank = s.plan.bank s.plan.live ∧ t.plan = { s.plan with state := .refresh, oldBank := none }) ∧
        (8388608 ≤ (f.number.superframe - a.superframe).toNat → bank = s.plan.bank old ∧ t.plan = s.plan))

/-! ### Slots and channels (Chapters 2 and 4) -/

/-- R25 to R31: what each of the 32 entries leaves in its slot. -/
def Obligations.SlotActionsLeaveSlots : Prop :=
  ∀ (plan : Plan) (slots : Slots) (ch : ChannelUnit) (j : Fin 32),
    let e := plan[j]
    let before := slots[j]
    let after := (slotsAfter plan slots ch)[j]
    let input := ch.inputs[e.channel]
    let output := ch.outputs[e.channel]
    (e.action = .pass ∨ e.action = .copy → after = before) ∧
    (e.action = .take → output.enabled = true → after = none) ∧
    (e.action = .take → output.enabled = false → after = before) ∧
    (e.action = .fill → input.enabled = true → before = none → after = some input.sample) ∧
    (e.action = .fill → before ≠ none → after = before) ∧
    (e.action = .force → input.enabled = true → after = some input.sample) ∧
    (e.action = .fill ∨ e.action = .force → input.enabled = false → after = before)

/-- R26, R27, R31, R40: in a plan where entry j alone names output k, the frame drives output k from slot j: the value of
an occupied slot is held and marked, a vacant slot is counted, and a disabled output is left alone. An output that no
entry names is left alone. -/
def Obligations.OutputDrivenByItsOneEntry : Prop :=
  ∀ (plan : Plan) (slots : Slots) (s : State) (k : Fin 8),
    let before := s.chan.outputs[k]
    let after := (slotEffects plan slots s).chan.outputs[k]
    ((∀ j : Fin 32, plan[j].namesOutput k = false) → after = before) ∧
    ∀ j : Fin 32, plan[j].namesOutput k = true → (∀ i : Fin 32, i ≠ j → plan[i].namesOutput k = false) →
      (before.enabled = false → after = before) ∧
      (∀ v, before.enabled = true → slots[j] = some v → after = { before with holding := v, written := true }) ∧
      (before.enabled = true → slots[j] = none → after = { before with vacancies := bump before.vacancies })

/-- R28, R30, R32, R33: slot processing changes of an enabled input its collision counter alone, once for each FILL entry
of it that finds its slot occupied, and input k is in the COLLISION detail afterwards exactly when it was before or has
yielded; a disabled input is left alone. Nothing else of the node changes but the outputs. -/
def Obligations.YieldsAreCountedAndReported : Prop :=
  ∀ (plan : Plan) (slots : Slots) (s : State),
    let t := slotEffects plan slots s
    (∀ k : Fin 8, s.chan.inputs[k].enabled = true →
      t.chan.inputs[k] = { s.chan.inputs[k] with
        collisions := countedTimes (yields plan slots k) s.chan.inputs[k].collisions }) ∧
    (∀ k : Fin 8, s.chan.inputs[k].enabled = false → t.chan.inputs[k] = s.chan.inputs[k]) ∧
    (∀ k : Fin 8, ((t.notices.collision.getD 0).getLsbD k.val = true ↔
      (s.notices.collision.getD 0).getLsbD k.val = true ∨
        (s.chan.inputs[k].enabled = true ∧ 0 < yields plan slots k))) ∧
    t = { s with
      chan := { s.chan with inputs := t.chan.inputs, outputs := t.chan.outputs }
      notices := { s.notices with collision := t.notices.collision } }

/-- R34: under the output-target law the effects of a frame do not depend on the order in which the engine takes the 32
entries. -/
def Obligations.SlotOrderDoesNotMatter : Prop :=
  ∀ (plan : Plan) (slots : Slots) (s : State) (order : List (Fin 32)),
    order.Perm (List.finRange 32) →
    (∀ (k : Fin 8) (i j : Fin 32), plan[i].namesOutput k = true → plan[j].namesOutput k = true → i = j) →
    order.foldl (fun t j => slotEffect plan[j] slots[j] t) s = slotEffects plan slots s

/-- R70 and R71: the converter exchange, input by input and output by output. -/
def Obligations.ConverterExchangeFollowsTables : Prop :=
  ∀ (ch : ChannelUnit) (k : Fin 8),
    let input := ch.inputs[k]
    let latched := ch.exchange.inputs[k]
    let output := ch.outputs[k]
    let settled := ch.exchange.outputs[k]
    (input.enabled = true → input.source = .port → latched = { input with sample := input.word }) ∧
    (input.enabled = true → input.source = .constant → latched = { input with sample := input.constant }) ∧
    (input.enabled = true → input.source = .ramp →
      latched = { input with sample := input.ramp, ramp := input.ramp + 1 }) ∧
    (input.enabled = false → latched = { input with sample := 0 }) ∧
    settled.written = false ∧ settled.enabled = output.enabled ∧ settled.policy = output.policy ∧
    settled.vacancies = output.vacancies ∧
    (output.enabled = true → output.written = true ∨ output.policy = .hold → settled.holding = output.holding) ∧
    (output.enabled = true → output.written = false → output.policy = .zero → settled.holding = 0) ∧
    (output.enabled = false → settled.holding = 0) ∧
    ∃ frame, ch.exchange.converterFrame = some frame ∧ frame.words[k] = settled.holding

/-- R69: the input words of a converter frame come I0 first and I7 last; the complete word of the channel whose turn it is
replaces that channel's register and no other, and each exchange starts a frame at I0. DEDUCED (notes/assumptions/10.md): the
word of I7 completes the frame, and an output word leaves on CDO as the input word of its number comes in. A word out of its
turn, or with no converter frame in progress, changes nothing (the model's choice for a happening that cannot take place,
notes/assumptions/5.md). -/
def Obligations.ConverterWordReplacesRegister : Prop :=
  ∀ (s : State) (word : Sample),
    (∀ frame, s.chan.converterFrame = some frame →
      (∃ t, exec (.converterWordReceived frame.next word) s = .next t ∧
        t.chan.inputs[frame.next] = { s.chan.inputs[frame.next] with word := word } ∧
        (∀ j : Fin 8, j ≠ frame.next → t.chan.inputs[j] = s.chan.inputs[j]) ∧
        (frame.next.val < 7 → ∃ after : ConverterFrame, t.chan.converterFrame = some after ∧
          after.next.val = frame.next.val + 1 ∧ after.words = frame.words) ∧
        (frame.next = 7 → t.chan.converterFrame = none) ∧
        t = { s with
          chan := { s.chan with inputs := t.chan.inputs, converterFrame := t.chan.converterFrame }
          wires := { s.wires with converterSent := s.wires.converterSent ++ [.word frame.words[frame.next]] } }) ∧
      ∀ k : Fin 8, k ≠ frame.next → exec (.converterWordReceived k word) s = .next s) ∧
    (s.chan.converterFrame = none → ∀ k : Fin 8, exec (.converterWordReceived k word) s = .next s) ∧
    ∃ started : ConverterFrame, s.chan.exchange.converterFrame = some started ∧ started.next = 0

/-! ### Changeover (Chapter 3) -/

/-- R50, R51, R58: an armed changeover fires at a boundary at or after its target, with all that R51 lists, and at a boundary
before the target, or in any other state, the check changes nothing. The refresh completion makes the draft bank a copy of
the live bank and the state IDLE, and acts on REFRESH alone. -/
def Obligations.BoundaryFiresChangeoverOrCompletesRefresh : Prop :=
  ∀ (s : State) (n : Superframe),
    (∀ target, s.plan.state = .armed → s.plan.target = some target → (n - target).toNat < 8388608 →
      ∃ late : Bool, (late = true ↔ n ≠ target) ∧
        changeoverCheck n s =
          { flagged s .changeover with
            plan := { s.plan with
              oldBank := some s.plan.live
              live := s.plan.draft
              applied := some { superframe := n, late := late }
              target := none
              state := .split
              lateChangeovers := if late then bump s.plan.lateChangeovers else s.plan.lateChangeovers }
            notices := { s.notices with changeoverDone := some { superframe := n, late := late } } }) ∧
    (∀ target, s.plan.state = .armed → s.plan.target = some target → 8388608 ≤ (n - target).toNat →
      changeoverCheck n s = s) ∧
    (s.plan.state ≠ .armed → changeoverCheck n s = s) ∧
    (s.plan.state = .refresh →
      ∃ plan, refreshCompletion s = { s with plan := plan } ∧ plan.state = .idle ∧
        plan.bankA = s.plan.bank s.plan.live ∧ plan.bankB = s.plan.bank s.plan.live ∧ plan.live = s.plan.live ∧
        plan.target = s.plan.target ∧ plan.applied = s.plan.applied ∧ plan.oldBank = s.plan.oldBank ∧
        plan.lateChangeovers = s.plan.lateChangeovers) ∧
    (s.plan.state ≠ .refresh → refreshCompletion s = s)

/-! ### Formats and messages (Chapters 5, 8 and 11) -/

/-- R23, R188 to R190: on the line, a vacant slot of a frame that the node sends carries zero in all its bytes, and an
occupied one its marker and its value; and every frame sent is read back, by a port of the same kind, as good and as
itself. -/
def Obligations.FrameReadsBackFromTheLine : Prop :=
  ∀ f : Frame, receivedFrame f.toWire = some f ∧
    ∀ j : Fin 32,
      (f.slots[j] = none → ((f.toWire.toList.drop (16 + 4 * j.val)).take 4) = [0x00, 0x00, 0x00, 0x00]) ∧
      ∀ v, f.slots[j] = some v → ((f.toWire.toList.drop (16 + 4 * j.val)).take 4) = 0x80 :: threeBytes v

/-- R42, R63, R66, R192: plan entries and channel entries read back as they are built; the fields of an entry are read from
their bits, whatever the spare ones hold; and a plan action of 5 to 7, a position of 16 or more, a source of 3 and a policy
of 2 or 3 name nothing and are refused. -/
def Obligations.EntriesReadBack : Prop :=
  (∀ e : PlanEntry, readPlanEntry e.byte = some e) ∧
  (∀ b : Byte, readPlanEntry b = none ↔ 5 ≤ (b.extractLsb' 4 3).toNat) ∧
  (∀ (b : Byte) (e : PlanEntry), readPlanEntry b = some e ↔
    b.extractLsb' 4 3 = e.action.code ∧ (b.extractLsb' 0 3).toNat = e.channel.val) ∧
  (∀ (ch : ChannelUnit) (k : Fin 8), ∃ b0 b1 b2 b3 b4,
    channelEntryBytes ch ⟨k.val, by omega⟩ = [b0, b1, b2, b3, b4] ∧
    readChannelEntry b0 b1 b2 b3 b4 =
      some (.input k ch.inputs[k].enabled ch.inputs[k].source ch.inputs[k].constant)) ∧
  (∀ (ch : ChannelUnit) (k : Fin 8), ∃ b0 b1,
    channelEntryBytes ch ⟨k.val + 8, by omega⟩ = [b0, b1, 0, 0, 0] ∧
    ∀ b2 b3 b4, readChannelEntry b0 b1 b2 b3 b4 = some (.output k ch.outputs[k].enabled ch.outputs[k].policy)) ∧
  ∀ b0 b1 b2 b3 b4 : Byte,
    let code := b1.extractLsb' 0 2
    (∀ (k : Fin 8) (source : InputSource), b0.toNat = k.val → code = source.code →
      readChannelEntry b0 b1 b2 b3 b4 = some (.input k (b1.getLsbD 7) source (b2 ++ b3 ++ b4))) ∧
    (∀ (k : Fin 8) (policy : VacancyPolicy), b0.toNat = k.val + 8 → code = policy.code →
      readChannelEntry b0 b1 b2 b3 b4 = some (.output k (b1.getLsbD 7) policy)) ∧
    (readChannelEntry b0 b1 b2 b3 b4 = none ↔
      16 ≤ b0.toNat ∨ (b0.toNat < 8 ∧ code.toNat = 3) ∨ (8 ≤ b0.toNat ∧ b0.toNat < 16 ∧ 2 ≤ code.toNat))

/-- R77, R79 to R82, R84, R85: the chunks of a good message, fed one after another to the assembler, make the request that
acceptance by the node address allows, or nothing; a message that was being assembled before is given up as one sequence
error, and no other error is counted. A message whose check fails counts one check error and is not read further. A chunk
that does not fit the assembler's state counts one sequence error, and one that does not fit the length one length error. -/
def Obligations.MessageChunksMakeRequest : Prop :=
  (∀ (m : Message) (s : State), m.payload.length ≤ 120 →
    let t := assembled m s
    let ready := partialGivenUp s
    (m.check = messageCheck m.body →
      (m.destination = 63 → t = admitRequest
        { addressing := .broadcast, kind := m.kind, sequence := m.sequence, payload := m.payload } ready) ∧
      (m.destination = s.executor.address → m.destination ≠ 0 → m.destination ≠ 63 → t = admitRequest
        { addressing := .individual, kind := m.kind, sequence := m.sequence, payload := m.payload } ready) ∧
      (m.destination ≠ 63 → (m.destination ≠ s.executor.address ∨ m.destination = 0) → t = ready)) ∧
    (m.check ≠ messageCheck m.body →
      t = { ready with receiver := { ready.receiver with checkErrors := bump ready.receiver.checkErrors } })) ∧
  ∀ (c : Chunk) (s : State),
    let t := assembleChunk c s
    let sequenceError := { s with receiver :=
      { s.receiver with assembler := .idle, sequenceErrors := bump s.receiver.sequenceErrors } }
    let lengthError := fun u : State => { u with receiver :=
      { u.receiver with assembler := .idle, lengthErrors := bump u.receiver.lengthErrors } }
    (Misfit c → t = lengthError (partialGivenUp s)) ∧
    (c.tag = 0x01 → 2 ≤ c.content[4].toNat → c.content[4].toNat ≤ 120 →
      t = { partialGivenUp s with receiver := { (partialGivenUp s).receiver with
        assembler := .assembling c.content.toList 1 ((c.content[4].toNat + 14) / 8) } }) ∧
    (s.receiver.assembler = .idle →
      (ReadAsIdle c.tag → t = s) ∧ (c.tag = 0x02 ∨ c.tag = 0x03 → t = sequenceError)) ∧
    (∀ buffer received expected, s.receiver.assembler = .assembling buffer received expected →
      (ReadAsIdle c.tag → t = sequenceError) ∧
      (c.tag = 0x02 → received + 1 < expected → t = { s with receiver := { s.receiver with
        assembler := .assembling (buffer ++ c.content.toList) (received + 1) expected } }) ∧
      (c.tag = 0x02 → expected ≤ received + 1 → t = lengthError s) ∧
      (c.tag = 0x03 → received + 1 ≠ expected → t = lengthError s))

/-- R86, R87, R88: a duplicate is discarded silently, a request that finds fewer than 4 waiting joins the queue at its tail,
and one that finds 4 is dropped, counted and reported. -/
def Obligations.RequestAdmission : Prop :=
  ∀ (r : Request) (s : State),
    let duplicate := r.addressing = .individual ∧ r.sequence ≠ 0 ∧
      ∃ q ∈ s.receiver.requests, q.addressing = .individual ∧ q.kind = r.kind ∧ q.sequence = r.sequence
    (duplicate → admitRequest r s = s) ∧
    (¬duplicate → s.receiver.requests.length < 4 →
      admitRequest r s = { s with receiver := { s.receiver with requests := s.receiver.requests ++ [r] } }) ∧
    (¬duplicate → 4 ≤ s.receiver.requests.length →
      admitRequest r s = { s with
        receiver := { s.receiver with requestsDropped := bump s.receiver.requestsDropped }
        notices := { s.notices with
          requestDropped := some { kind := r.kind, sequence := r.sequence, addressing := r.addressing } } })

/-- R137 to R141, R143: the chunks of a good message, fed one after another to an inbound receiver in IDLE with a FREE slot,
leave it COMPLETE in the lower-numbered FREE slot, last in the completion order: a ROLL-CALL RETURN as the append leaves it,
any other message unchanged. A malformed return, and a message whose check fails, count one inbound check error and leave
the slot FREE. With no FREE slot the message is dropped, counted and reported, and its chunks are ignored to its last. A
chunk that breaks order or length counts one inbound check error and frees the slot. -/
def Obligations.PassThroughStoresMessageWhole : Prop :=
  (∀ (m : Message) (s : State), m.payload.length ≤ 120 → s.inbound.rx = .idle →
    let t := receivedWhole m s
    (∀ k : Fin 2, s.inbound.slots[k] = .free → (∀ j : Fin 2, j < k → s.inbound.slots[j] ≠ .free) →
      let stored := fun x : Message => { s with inbound := { s.inbound with
        slots := s.inbound.slots.set k (.complete x), order := s.inbound.order ++ [k] } }
      (m.check = messageCheck m.body → m.kind ≠ 0x82 → t = stored m) ∧
      (∀ x, m.check = messageCheck m.body → m.kind = 0x82 → s.passThrough m = some x → t = stored x) ∧
      (m.check ≠ messageCheck m.body ∨ (m.kind = 0x82 ∧ s.passThrough m = none) →
        t = inboundError .idle (s.inbound.slots.set k .free) s)) ∧
    ((∀ k : Fin 2, s.inbound.slots[k] ≠ .free) →
      t = { s with
        inbound := { s.inbound with passDropped := bump s.inbound.passDropped }
        notices := { s.notices with
          passDropped := some { source := m.source, kind := m.kind, sequence := m.sequence } } })) ∧
  ∀ (c : Chunk) (s : State),
    let t := inboundReceive c s
    (s.inbound.rx = .idle →
      (ReadAsIdle c.tag → t = s) ∧
      (c.tag = 0x02 ∨ c.tag = 0x03 ∨ Misfit c → t = inboundError .idle s.inbound.slots s)) ∧
    (s.inbound.rx = .discarding →
      let ended := { s with inbound := { s.inbound with rx := .idle } }
      (c.tag = 0x02 → t = s) ∧ (c.tag = 0x03 ∨ ReadAsIdle c.tag → t = ended) ∧
      (c.tag = 0x01 ∨ c.tag = 0x04 → t = inboundReceive c ended)) ∧
    (∀ k received expected, s.inbound.rx = .receiving k received expected →
      let broken := inboundError .idle (s.inbound.slots.set k .free) s
      (ReadAsIdle c.tag → t = broken) ∧
      (∀ bytes, c.tag = 0x02 → received + 1 < expected → s.inbound.slots[k] = .receiving bytes →
        t = { s with inbound := { s.inbound with
          rx := .receiving k (received + 1) expected
          slots := s.inbound.slots.set k (.receiving (bytes ++ c.content.toList)) } }) ∧
      (c.tag = 0x02 → expected ≤ received + 1 → t = broken) ∧
      (c.tag = 0x03 → received + 1 ≠ expected → t = broken) ∧
      (c.tag = 0x01 ∨ c.tag = 0x04 → t = inboundReceive c broken))

/-! ### The request executor (Chapters 6 and 7) -/

/-- R94, R95: a request that its execution would answer, or that would place a ROLL-CALL RETURN, waits while 5 messages
other than NOTICE messages are held; nothing of it is done. R92, R103: in RESET-WAIT the executor takes no request, whatever
waits (that such a command then changes nothing is notes/assumptions/5.md). -/
def Obligations.RequestWaitsForRoom : Prop :=
  (∀ s : State, s.executor.state = .resetWait →
    (∀ k, exec (commandOf k) s = .next s) ∧ exec .unknownKindRequest s = .next s ∧
      exec .lastReplyAnswer s = .next s) ∧
  ∀ (s : State) (r : Request) (rest : List Request), s.receiver.requests = r :: rest →
    s.executor.state ≠ .resetWait → 5 ≤ s.nonNotices →
    let waits := .next { s with executor := { s.executor with state := .waiting } }
    (∀ k, r.addressing = .individual → r.kind = k.code → exec (commandOf k) s = waits) ∧
    (r.addressing = .individual → (∀ k : RequestKind, r.kind ≠ k.code) → exec .unknownKindRequest s = waits) ∧
    (∀ e, r.addressing = .individual → r.sequence ≠ 0 → s.executor.lastReply = some e → e.kind = r.kind →
      e.sequence = r.sequence → exec .lastReplyAnswer s = waits) ∧
    (r.addressing = .broadcast → r.kind = 0x1A → (r.payload = [0x00] ∨ r.payload = [0x01]) →
      s.tailPort.lock ≠ .locked → exec .rollCall s = waits) ∧
    (∀ address : Byte, r.addressing = .broadcast → r.kind = 0x11 → r.payload = sixBytes s.identity ++ [address] →
      1 ≤ address.toNat → address.toNat ≤ 62 → exec .assign s = waits)

/-- R102: a numbered, individually addressed request that the store's entry matches is answered with the stored reply
exactly as stored; nothing is executed and the store is unchanged. -/
def Obligations.StoredReplyAnswersRetry : Prop :=
  ∀ (s : State) (r : Request) (rest : List Request) (e : StoredReply), s.receiver.requests = r :: rest →
    s.executor.state ≠ .resetWait → r.addressing = .individual → r.sequence ≠ 0 → s.executor.lastReply = some e →
    e.kind = r.kind → e.sequence = r.sequence → s.nonNotices < 5 →
    exec .lastReplyAnswer s = .next (queued e.reply (taken s rest))

/-- R96, R97, R98: an unknown Kind is refused UNKNOWN_KIND; a broadcast-only kind that is individually addressed is refused
MISDIRECTED; a payload length that does not fit is refused BAD_LENGTH; and a broadcast of the six kinds that answer is
discarded. A refused request changes no state but the queues and the last-reply store. -/
def Obligations.GeneralChecksRefuse : Prop :=
  ∀ (s : State) (r : Request) (rest : List Request),
    (Takes r.kind s r rest → (∀ k : RequestKind, r.kind ≠ k.code) →
      Ends .unknownKindRequest s r 0x01 [] (taken s rest)) ∧
    (∀ k, k = .assign ∨ k = .rollCall → Takes k.code s r rest → r.addressing = .individual →
      Ends (commandOf k) s r 0x02 [] (taken s rest)) ∧
    (∀ k, Takes k.code s r rest → ¬LengthAllowed k r.payload →
      (r.addressing = .individual → k ≠ .assign ∧ k ≠ .rollCall) →
      Ends (commandOf k) s r 0x03 [] (taken s rest)) ∧
    (∀ k, k = .readChannels ∨ k = .readCounters ∨ k = .readPlan ∨ k = .readStatus ∨ k = .relayOut ∨ k = .release →
      Takes k.code s r rest → r.addressing = .broadcast → exec (commandOf k) s = .next (taken s rest))

/-- R109, R110, R111: ARM CHANGEOVER by changeover state and stale test. -/
def Obligations.ArmChangeover : Prop :=
  ∀ (s : State) (r : Request) (rest : List Request) (b2 b1 b0 : Byte), Takes 0x10 s r rest → r.payload = [b2, b1, b0] →
    let target : Superframe := b2 ++ b1 ++ b0
    let ahead := (target - s.timing.number.superframe).toNat
    (s.plan.state = .split ∨ s.plan.state = .refresh → Ends .armChangeover s r 0x06 [] (taken s rest)) ∧
    (s.plan.state = .idle ∨ s.plan.state = .armed → 1 ≤ ahead → ahead ≤ 8388607 →
      Ends .armChangeover s r 0x00
        ([b2, b1, b0] ++ threeBytes s.timing.number.superframe ++ [0#2 ++ s.timing.number.index])
        { taken s rest with plan := { s.plan with state := .armed, target := some target } }) ∧
    (s.plan.state = .idle ∨ s.plan.state = .armed → ahead = 0 ∨ 8388608 ≤ ahead →
      Ends .armChangeover s r 0x08 [] (taken s rest))

/-- R115: CANCEL CHANGEOVER by changeover state. -/
def Obligations.CancelChangeover : Prop :=
  ∀ (s : State) (r : Request) (rest : List Request), Takes 0x12 s r rest → r.payload = [] →
    (∀ target, s.plan.state = .armed → s.plan.target = some target →
      Ends .cancelChangeover s r 0x00 (threeBytes target)
        { taken s rest with plan := { s.plan with state := .idle, target := none } }) ∧
    (s.plan.state = .idle → Ends .cancelChangeover s r 0x0A [] (taken s rest)) ∧
    (s.plan.state = .split ∨ s.plan.state = .refresh → Ends .cancelChangeover s r 0x06 [] (taken s rest))

/-- R112, R113: a broadcast ASSIGN of another identity has no effect; one of this identity with an address from 1 to 62 sets
the address, the local flag ADDRESS_CHANGED, and queues a ROLL-CALL RETURN of scope ASSIGNED with the node's record; any
other address is refused silently. -/
def Obligations.AssignSetsAddressAndConfirms : Prop :=
  ∀ (s : State) (r : Request) (rest : List Request) (identity : Identity) (address : Byte), Takes 0x11 s r rest →
    r.addressing = .broadcast → r.payload = sixBytes identity ++ [address] →
    (identity ≠ s.identity → exec .assign s = .next (taken s rest)) ∧
    (identity = s.identity → address.toNat = 0 ∨ 63 ≤ address.toNat → exec .assign s = .next (taken s rest)) ∧
    (identity = s.identity → 1 ≤ address.toNat → address.toNat ≤ 62 → s.nonNotices < 5 →
      let t : State := flagged
        { taken s rest with executor := { s.executor with state := .ready, address := address } } .addressChanged
      ∃ m, IsReturn address r.sequence ([0x02, 0x01, 0x01, 0x00] ++ ownRecord t 0x01) m ∧
        exec .assign s = .next (queued m t))

/-- R126: RELEASE is answered under the old address, and then the address is 0 and ADDRESS_CHANGED is set. -/
def Obligations.ReleaseGivesUpAddress : Prop :=
  ∀ (s : State) (r : Request) (rest : List Request), Takes 0x18 s r rest → r.addressing = .individual → r.payload = [] →
    Ends .release s r 0x00 []
      (flagged { taken s rest with executor := { s.executor with state := .ready, address := 0 } } .addressChanged)

/-- R116: a valid window of the channel table is returned entry by entry; any other is refused. -/
def Obligations.ReadChannelsReturnsWindow : Prop :=
  ∀ (s : State) (r : Request) (rest : List Request) (first count : Byte), Takes 0x13 s r rest →
    r.addressing = .individual → r.payload = [first, count] →
    (1 ≤ count.toNat → first.toNat + count.toNat ≤ 16 →
      ∃ entries : List Byte, entries.length = 5 * count.toNat ∧
        (∀ (i : Nat) (h : first.toNat + i < 16), i < count.toNat →
          (entries.drop (5 * i)).take 5 = channelEntryBytes s.chan ⟨first.toNat + i, h⟩) ∧
        Ends .readChannels s r 0x00 ([first, count] ++ entries) (taken s rest)) ∧
    (count.toNat = 0 ∨ 16 < first.toNat + count.toNat → Ends .readChannels s r 0x04 [] (taken s rest))

/-- R117, R118, R119: the counters of a group in their order, and the group set to 0 when the clear flag is 1. -/
def Obligations.ReadCountersReturnsAndClears : Prop :=
  ∀ (s : State) (r : Request) (rest : List Request) (group clear : Byte), Takes 0x14 s r rest →
    r.addressing = .individual → r.payload = [group, clear] →
    (3 ≤ group.toNat ∨ 2 ≤ clear.toNat → Ends .readCounters s r 0x04 [] (taken s rest)) ∧
    (group = 0x00 →
      let data := 0x00 :: [s.headPort.misses, s.headPort.losses, s.tailPort.misses, s.tailPort.losses].flatMap twoBytes
      (clear = 0x00 → Ends .readCounters s r 0x00 data (taken s rest)) ∧
      (clear = 0x01 → Ends .readCounters s r 0x00 data
        { taken s rest with
          headPort := { s.headPort with misses := 0, losses := 0 }
          tailPort := { s.tailPort with misses := 0, losses := 0 } })) ∧
    (group = 0x01 →
      let data := 0x01 :: [s.receiver.sequenceErrors, s.receiver.lengthErrors, s.receiver.checkErrors,
        s.inbound.checkErrors, s.receiver.requestsDropped, s.inbound.passDropped, s.plan.lateChangeovers].flatMap twoBytes
      (clear = 0x00 → Ends .readCounters s r 0x00 data (taken s rest)) ∧
      (clear = 0x01 → Ends .readCounters s r 0x00 data
        { taken s rest with
          receiver := { s.receiver with
            requests := rest, sequenceErrors := 0, lengthErrors := 0, checkErrors := 0, requestsDropped := 0 }
          inbound := { s.inbound with checkErrors := 0, passDropped := 0 }
          plan := { s.plan with lateChangeovers := 0 } })) ∧
    (group = 0x02 →
      let data := 0x02 :: ((s.chan.inputs.toList.map InputChannel.collisions) ++
        (s.chan.outputs.toList.map OutputChannel.vacancies)).flatMap twoBytes
      (clear = 0x00 → Ends .readCounters s r 0x00 data (taken s rest)) ∧
      (clear = 0x01 → ∃ chan : ChannelUnit,
        (∀ k : Fin 8, chan.inputs[k] = { s.chan.inputs[k] with collisions := 0 } ∧
          chan.outputs[k] = { s.chan.outputs[k] with vacancies := 0 }) ∧
        chan.converterFrame = s.chan.converterFrame ∧
        Ends .readCounters s r 0x00 data { taken s rest with chan := chan }))

/-- R120, R121: a valid window of either bank is returned with the live bank and the changeover state; the draft bank is
refused BUSY in REFRESH. -/
def Obligations.ReadPlanReturnsWindow : Prop :=
  ∀ (s : State) (r : Request) (rest : List Request) (bank direction first count : Byte), Takes 0x15 s r rest →
    r.addressing = .individual → r.payload = [bank, direction, first, count] →
    (2 ≤ bank.toNat ∨ 2 ≤ direction.toNat ∨ count.toNat = 0 ∨ 32 < first.toNat + count.toNat →
      Ends .readPlan s r 0x04 [] (taken s rest)) ∧
    (∀ (name : BankName) (d : Direction), bank = name.code → direction = d.code → 1 ≤ count.toNat →
      first.toNat + count.toNat ≤ 32 →
      (name ≠ s.plan.live → s.plan.state = .refresh → Ends .readPlan s r 0x06 [] (taken s rest)) ∧
      (name = s.plan.live ∨ s.plan.state ≠ .refresh →
        ∃ entries : List Byte, entries.length = count.toNat ∧
          (∀ (i : Nat) (h : first.toNat + i < 32), i < count.toNat →
            entries[i]? = some (((s.plan.bank name).plan d)[first.toNat + i]).byte) ∧
          Ends .readPlan s r 0x00
            ([bank, s.plan.live.code, s.plan.state.code, direction, first, count] ++ entries) (taken s rest)))

/-- R122, R123: READ STATUS returns the 38 bytes of the status record, field by field. -/
def Obligations.ReadStatusReturnsRecord : Prop :=
  ∀ (s : State) (r : Request) (rest : List Request), Takes 0x16 s r rest → r.addressing = .individual → r.payload = [] →
    ∃ data : List Byte, Ends .readStatus s r 0x00 data (taken s rest) ∧ data.length = 38 ∧
      data.take 6 = sixBytes s.identity ∧
      (data.drop 6).take 4 = [s.executor.address, s.headPort.lock.code, s.tailPort.lock.code,
        if s.headLostSeen then 0x01 else 0x00] ∧
      (data.drop 10).take 6 = threeBytes s.timing.number.superframe ++
        [0#2 ++ s.timing.number.index, s.plan.live.code, s.plan.state.code] ∧
      (s.plan.target = none → (data.drop 16).take 4 = [0x00, 0x00, 0x00, 0x00]) ∧
      (∀ target, s.plan.target = some target → (data.drop 16).take 4 = 0x01 :: threeBytes target) ∧
      (s.plan.applied = none → (data.drop 20).take 5 = [0x00, 0x00, 0x00, 0x00, 0x00]) ∧
      (∀ a, s.plan.applied = some a → (data.drop 20).take 5 =
        0x01 :: threeBytes a.superframe ++ [if a.late then 0x01 else 0x00]) ∧
      (data.drop 25).take 4 = [BitVec.ofNat 8 rest.length, BitVec.ofNat 8 s.inbound.queue.length,
        BitVec.ofNat 8 s.nonNotices,
        BitVec.ofNat 8 (s.inbound.slots.toList.countP fun x => x != .free)] ∧
      (s.relay.outward = none → (data.drop 29).take 2 = [0x00, 0x00]) ∧
      (∀ box, s.relay.outward = some box → (data.drop 29).take 2 = [0x01, box.countdown.getD 0]) ∧
      (data.drop 31).take 1 = [s.relay.inward.code] ∧
      (data.drop 32).take 4 = twoBytes (0#6 ++ s.notices.kinds) ++ twoBytes (0#6 ++ s.executor.noticeEnable) ∧
      (data.drop 36).take 2 = [s.executor.relayTimeout, if s.port.channelLock then 0x01 else 0x00]

/-- R124: RELAY OUT fills an EMPTY outward box, loads the countdown and sets OUTWARD_ARRIVED, and is refused FULL at a HELD
one. -/
def Obligations.RelayOutFillsBoxOrIsFull : Prop :=
  ∀ (s : State) (r : Request) (rest : List Request), Takes 0x17 s r rest → r.addressing = .individual →
    1 ≤ r.payload.length → r.payload.length ≤ 120 →
    (s.relay.outward ≠ none → Ends .relayOut s r 0x0B [] (taken s rest)) ∧
    (s.relay.outward = none → s.executor.relayTimeout ≠ 0 →
      Ends .relayOut s r 0x00 [s.executor.relayTimeout]
        (flagged { taken s rest with relay := { s.relay with
          outward := some { payload := r.payload, countdown := some s.executor.relayTimeout } } } .outwardArrived)) ∧
    (s.relay.outward = none → s.executor.relayTimeout = 0 →
      Ends .relayOut s r 0x00 [0x00]
        (flagged { taken s rest with relay := { s.relay with
          outward := some { payload := r.payload, countdown := none } } } .outwardArrived))

/-- R103, R104: an individually addressed RESET NODE is answered and the executor enters RESET-WAIT with that reply
recorded; a broadcast one applies the node reset at once. -/
def Obligations.ResetNodeAnswersThenWaits : Prop :=
  ∀ (s : State) (r : Request) (rest : List Request), Takes 0x19 s r rest → r.payload = [] →
    (r.addressing = .broadcast → exec .resetNode s = exec .nodeReset (taken s rest)) ∧
    (r.addressing = .individual →
      ∃ m, IsReply s.executor.address r 0x00 [] m ∧
        exec .resetNode s = .next (withReply r m .resetReply
          { taken s rest with executor := { s.executor with state := .resetWait } }))

/-- R128, R129: a broadcast ROLL CALL at a node whose tail-side port is in LOCKED has no effect; at any other node it queues
a ROLL-CALL RETURN with hop count 1 and the record that its scope allows; a scope that is neither ALL nor UNASSIGNED is
refused silently. -/
def Obligations.RollCallOriginatesAtTail : Prop :=
  ∀ (s : State) (r : Request) (rest : List Request) (scope : Byte), Takes 0x1A s r rest → r.addressing = .broadcast →
    r.payload = [scope] →
    (2 ≤ scope.toNat ∨ s.tailPort.lock = .locked → exec .rollCall s = .next (taken s rest)) ∧
    (scope.toNat ≤ 1 → s.tailPort.lock ≠ .locked → s.nonNotices < 5 →
      ∃ m, IsReturn s.executor.address r.sequence
          (if scope = 0x00 ∨ s.executor.address = 0 then [scope, 0x01, 0x01, 0x00] ++ ownRecord s 0x01
            else [scope, 0x01, 0x00, 0x00]) m ∧
        exec .rollCall s = .next (queued m (taken s rest)))

/-- R65, R66, R67, R131: WRITE CHANNELS is refused LOCKED under the channel lock; otherwise a write whose count is out of
range, whose entries do not all read, or that names a position twice is refused OUT_OF_RANGE, and any other is applied
whole: each named channel takes the settings carried, and every other channel is unchanged. -/
def Obligations.WriteChannelsAppliesWholeOrRefuses : Prop :=
  ∀ (s : State) (r : Request) (rest : List Request) (count : Byte) (bytes : List Byte), Takes 0x1B s r rest →
    r.payload = count :: bytes → bytes.length = 5 * count.toNat →
    (s.port.channelLock = true → Ends .writeChannels s r 0x09 [] (taken s rest)) ∧
    (s.port.channelLock = false → count.toNat = 0 ∨ 16 < count.toNat → Ends .writeChannels s r 0x04 [] (taken s rest)) ∧
    (s.port.channelLock = false → readChannelEntries r.payload count.toNat = none →
      Ends .writeChannels s r 0x04 [] (taken s rest)) ∧
    (∀ entries, s.port.channelLock = false → 1 ≤ count.toNat → count.toNat ≤ 16 →
      readChannelEntries r.payload count.toNat = some entries →
      (¬(entries.map ChannelEntry.position).Nodup → Ends .writeChannels s r 0x04 [] (taken s rest)) ∧
      ((entries.map ChannelEntry.position).Nodup →
        ∃ chan : ChannelUnit, chan.converterFrame = s.chan.converterFrame ∧
          (∀ (k : Fin 8) enabled source constant, .input k enabled source constant ∈ entries →
            chan.inputs[k] = { s.chan.inputs[k] with
              enabled := enabled, source := source, constant := constant
              ramp := if source = .ramp then constant else s.chan.inputs[k].ramp
              sample := if enabled then s.chan.inputs[k].sample else 0 }) ∧
          (∀ (k : Fin 8) enabled policy, .output k enabled policy ∈ entries →
            chan.outputs[k] = { s.chan.outputs[k] with
              enabled := enabled, policy := policy
              holding := if enabled then s.chan.outputs[k].holding else 0
              written := if enabled then s.chan.outputs[k].written else false }) ∧
          (∀ k : Fin 8, k.val ∉ entries.map ChannelEntry.position → chan.inputs[k] = s.chan.inputs[k]) ∧
          (∀ k : Fin 8, k.val + 8 ∉ entries.map ChannelEntry.position → chan.outputs[k] = s.chan.outputs[k]) ∧
          Ends .writeChannels s r 0x00 [count] { taken s rest with chan := chan }))

/-- R41 to R44, R133, R134: WRITE PLAN is refused FROZEN in ARMED and BUSY in SPLIT and REFRESH; in IDLE an invalid window or
entry is refused OUT_OF_RANGE, a draft that would name an output twice is refused CONFLICT, and any other write replaces
the window of the draft bank and nothing else. -/
def Obligations.WritePlanTestsAndWritesDraft : Prop :=
  ∀ (s : State) (r : Request) (rest : List Request) (direction first count : Byte) (bytes : List Byte),
    Takes 0x1C s r rest → r.payload = direction :: first :: count :: bytes → bytes.length = count.toNat →
    (s.plan.state = .armed → Ends .writePlan s r 0x07 [] (taken s rest)) ∧
    (s.plan.state = .split ∨ s.plan.state = .refresh → Ends .writePlan s r 0x06 [] (taken s rest)) ∧
    (s.plan.state = .idle → 2 ≤ direction.toNat ∨ count.toNat = 0 ∨ 32 < first.toNat + count.toNat →
      Ends .writePlan s r 0x04 [] (taken s rest)) ∧
    (s.plan.state = .idle → (∃ b ∈ bytes, readPlanEntry b = none) → Ends .writePlan s r 0x04 [] (taken s rest)) ∧
    (∀ (d : Direction) (entries : List PlanEntry), s.plan.state = .idle → direction = d.code → 1 ≤ count.toNat →
      first.toNat + count.toNat ≤ 32 → bytes.map readPlanEntry = entries.map some →
      ∃ written : Bank,
        (∀ j : Fin 32, (written.plan d)[j] =
          if first.toNat ≤ j.val then (entries[j.val - first.toNat]?).getD ((s.plan.bank s.plan.draft).plan d)[j]
          else ((s.plan.bank s.plan.draft).plan d)[j]) ∧
        (∀ d' : Direction, d' ≠ d → written.plan d' = (s.plan.bank s.plan.draft).plan d') ∧
        ((∃ k : Fin 8, 2 ≤ written.namings k) → Ends .writePlan s r 0x05 [] (taken s rest)) ∧
        ((∀ k : Fin 8, written.namings k ≤ 1) →
          Ends .writePlan s r 0x00 [s.plan.draft.code, direction, first, count]
            { taken s rest with plan := s.plan.setBank s.plan.draft written }))

/-- R107, R135: WRITE SETTINGS writes both settings together, or is refused when a spare position of the enable set is
set. -/
def Obligations.WriteSettingsWritesBoth : Prop :=
  ∀ (s : State) (r : Request) (rest : List Request) (timeout hi lo : Byte), Takes 0x1D s r rest →
    r.payload = [timeout, hi, lo] →
    (4 ≤ hi.toNat → Ends .writeSettings s r 0x04 [] (taken s rest)) ∧
    (hi.toNat < 4 →
      ∃ enable : BitVec 10, enable.toNat = 256 * hi.toNat + lo.toNat ∧
        Ends .writeSettings s r 0x00 [timeout, hi, lo]
          { taken s rest with executor := { s.executor with
              state := .ready, relayTimeout := timeout, noticeEnable := enable } })

/-! ### The inbound service unit (Chapters 8 and 9) -/

/-- R104, R149, R173: the report of an emission's last chunk ends it, and the reports of other frames change the emission's
count of chunks sent at most. The end of a recorded RESET NODE reply applies the node reset. That a reported chunk tagged
LAST or ONLY is the last of the emission in progress is the model's deduction (notes/assumptions/18.md), and so is the link
on the entry that says what its end means to another block (notes/assumptions/17.md). -/
def Obligations.ReportEndsEmission : Prop :=
  ∀ (s : State) (f : Frame) (frames : List Frame) (e : Emission), s.wires.headTx = f :: frames →
    (s.inbound.emission = none ∨ 5 ≤ f.chunk.tag.toNat ∨ f.chunk.tag = 0x00 →
      exec .inboundFrameSentReport s = .next (reported s f frames)) ∧
    (s.inbound.emission = some e → f.chunk.tag = 0x01 ∨ f.chunk.tag = 0x02 →
      exec .inboundFrameSentReport s =
        .next { reported s f frames with inbound :=
          { s.inbound with emission := some { e with sent := e.sent + 1 } } }) ∧
    (s.inbound.emission = some e → f.chunk.tag = 0x03 ∨ f.chunk.tag = 0x04 →
      (∀ k, e.source = .slot k → exec .inboundFrameSentReport s =
        .next { reported s f frames with inbound :=
          { s.inbound with slots := s.inbound.slots.set k .free, emission := none } }) ∧
      ∀ x rest, e.source = .ownQueue → s.inbound.queue = x :: rest →
        let t : State := { reported s f frames with inbound := { s.inbound with queue := rest, emission := none } }
        (x.link = .plain → exec .inboundFrameSentReport s = .next t) ∧
        (x.link = .inwardBox → exec .inboundFrameSentReport s =
          .next (flagged { t with relay := { s.relay with inward := .empty } } .inwardSent)) ∧
        (x.link = .resetReply → s.executor.state = .resetWait →
          exec .inboundFrameSentReport s = exec .nodeReset t))

/-- R141, R147, R173: with no emission in progress the arbiter starts the one candidate there is, or of two the one whose
source is not the last winner, and the inbound frame carries the winner's first chunk; with no candidate it carries an IDLE
chunk. The candidates are those that stand when the chunk of a received frame has been handed on, so a message that it
completes is one of them. -/
def Obligations.ArbiterStartsByAlternation : Prop :=
  ∀ (f : Frame) (received : Option Chunk) (s : State), s.inbound.emission = none →
    let v := handedOn received s
    let t := inboundFrameEvent f received s
    let carries := fun c : Chunk => ∃ g : Frame, t.wires.headTx = s.wires.headTx ++ [g] ∧ g.chunk = c
    (v.inbound.order = [] → v.inbound.queue = [] → carries idleChunk ∧ t.inbound = v.inbound) ∧
    (∀ k ks m, v.inbound.order = k :: ks → v.inbound.slots[k] = .complete m →
      (v.inbound.queue = [] ∨ v.inbound.lastWinner = .ownQueue) →
      carries (m.chunk 0) ∧ t.relay = s.relay ∧
        t.inbound = { v.inbound with
          slots := v.inbound.slots.set k (.sending m), order := ks, lastWinner := .passThrough
          emission := some { source := .slot k, placed := 1, sent := 0 } }) ∧
    (∀ x rest, v.inbound.queue = x :: rest → (v.inbound.order = [] ∨ v.inbound.lastWinner = .passThrough) →
      (∀ k ks, v.inbound.order = k :: ks → ∃ m, v.inbound.slots[k] = .complete m) →
      carries (x.message.chunk 0) ∧
        t.inbound = { v.inbound with
          lastWinner := .ownQueue, emission := some { source := .ownQueue, placed := 1, sent := 0 } } ∧
        (∀ p, x.link = .inwardBox → s.relay.inward = .queued p → t.relay = { s.relay with inward := .sending p }) ∧
        (x.link ≠ .inwardBox → t.relay = s.relay))

/-- R148: while chunks of an emission remain, every inbound frame carries the next one, whatever the frame's source; when
all have been placed, it carries an IDLE chunk. -/
def Obligations.EmissionGoesOnInEveryFrame : Prop :=
  ∀ (f : Frame) (received : Option Chunk) (s : State) (e : Emission) (m : Message), PassBufferConsistent s →
    s.inbound.emission = some e → Emits s.inbound e m →
    let t := inboundFrameEvent f received s
    ∃ g : Frame, t.wires.headTx = s.wires.headTx ++ [g] ∧ t.inbound.queue = s.inbound.queue ∧ t.relay = s.relay ∧
      (e.placed < m.chunks → g.chunk = m.chunk e.placed ∧
        t.inbound.emission = some { e with placed := e.placed + 1 }) ∧
      (m.chunks ≤ e.placed → g.chunk = idleChunk ∧ t.inbound.emission = some e)

/-- R159, R160, R161: a well-formed ROLL-CALL RETURN leaves with its hop count raised by one up to 63, OVERLONG set at 63,
the node's record added where the hop count stays below 63 and the scope allows it, the first record dropped and TRUNCATED
set when twelve are held, and its check computed afresh; a return that is not well formed is discarded. -/
def Obligations.RollCallAppendCountsAndRecords : Prop :=
  ∀ (s : State) (m : Message), m.kind = 0x82 →
    let admits := fun scope : Byte => scope = 0x00 ∨ (scope = 0x01 ∧ s.executor.address = 0)
    (∀ (scope hop count flags : Byte) (records : List Byte), m.payload = [scope, hop, count, flags] ++ records →
      scope.toNat ≤ 2 → 1 ≤ hop.toNat → hop.toNat ≤ 63 → count.toNat ≤ 12 → records.length = 9 * count.toNat →
      ∃ payload, s.passThrough m = some (Message.sealed { m with payload := payload }) ∧
        (62 ≤ hop.toNat → payload = [scope, 63, count, flags ||| 0x02] ++ records) ∧
        (hop.toNat < 62 → ¬admits scope → payload = [scope, hop + 1, count, flags] ++ records) ∧
        (hop.toNat < 62 → admits scope → count.toNat < 12 →
          payload = [scope, hop + 1, count + 1, flags] ++ records ++ ownRecord s (hop + 1)) ∧
        (hop.toNat < 62 → admits scope → count.toNat = 12 →
          payload = [scope, hop + 1, 12, flags ||| 0x01] ++ records.drop 9 ++ ownRecord s (hop + 1))) ∧
    (∀ (scope hop count flags : Byte) (records : List Byte), m.payload = [scope, hop, count, flags] ++ records →
      3 ≤ scope.toNat ∨ hop.toNat = 0 ∨ 64 ≤ hop.toNat ∨ 13 ≤ count.toNat ∨ records.length ≠ 9 * count.toNat →
      s.passThrough m = none) ∧
    (m.payload.length < 4 → s.passThrough m = none)

/-- R151, R152, R153: the NOTICE that a build makes carries an item with its detail for each pending kind that is enabled, in
the order of the kinds; those kinds leave the pending set, the others stay with their details, and the notice number moves
on. With a condition missing, nothing is built (the model's choice for a happening that cannot take place,
notes/assumptions/5.md). -/
def Obligations.NoticeBuildCarriesEnabledKinds : Prop :=
  ∀ s : State,
    let enabled := fun kind : Nat => s.executor.noticeEnable.getLsbD kind
    let due := 1 ≤ s.executor.address.toNat ∧ s.executor.address.toNat ≤ 62 ∧
      (∃ kind < 10, (noticeDetail s.notices kind).isSome = true ∧ enabled kind = true) ∧
      ∀ x ∈ s.inbound.queue, x.message.kind ≠ 0x81
    let items := (List.range 10).filterMap fun kind =>
      if enabled kind then (noticeDetail s.notices kind).map fun detail => BitVec.ofNat 8 kind :: detail else none
    (due → ∃ m : Message,
      m.destination = 0 ∧ m.source = s.executor.address ∧ m.kind = 0x81 ∧ m.sequence = s.inbound.noticeNumber ∧
      m.payload = BitVec.ofNat 8 items.length :: items.flatten ∧ m.check = messageCheck m.body ∧
      exec .noticeBuild s = .next
        { s with
          notices :=
            { headLost := if enabled 0 then none else s.notices.headLost
              headRestored := if enabled 1 then none else s.notices.headRestored
              tailLost := if enabled 2 then none else s.notices.tailLost
              tailRestored := if enabled 3 then none else s.notices.tailRestored
              changeoverDone := if enabled 4 then none else s.notices.changeoverDone
              collision := if enabled 5 then none else s.notices.collision
              requestDropped := if enabled 6 then none else s.notices.requestDropped
              passDropped := if enabled 7 then none else s.notices.passDropped
              relayExpired := if enabled 8 then none else s.notices.relayExpired
              relayDelivered := if enabled 9 then none else s.notices.relayDelivered }
          inbound := { s.inbound with
            queue := s.inbound.queue ++ [{ message := m, link := .plain }]
            noticeNumber := if s.inbound.noticeNumber = 255 then 1 else s.inbound.noticeNumber + 1 } }) ∧
    (¬due → exec .noticeBuild s = .next s)

/-- R172: a POSTED message is queued as a RELAY IN once the node is assigned and there is room; until then it stays
POSTED (that the command then changes nothing is the model's choice for a happening that cannot take place,
notes/assumptions/5.md). -/
def Obligations.PostedMessageIsQueued : Prop :=
  ∀ (s : State) (p : List Byte), s.relay.inward = .posted p →
    (1 ≤ s.executor.address.toNat → s.executor.address.toNat ≤ 62 → s.nonNotices < 5 →
      ∃ m : Message, m.destination = 0 ∧ m.source = s.executor.address ∧ m.kind = 0x83 ∧
        m.sequence = s.relay.relayInNumber ∧ m.payload = p ∧ m.check = messageCheck m.body ∧
        exec .relayInQueuing s = .next
          { s with
            inbound := { s.inbound with queue := s.inbound.queue ++ [{ message := m, link := .inwardBox }] }
            relay := { s.relay with
              inward := .queued p
              relayInNumber := if s.relay.relayInNumber = 255 then 1 else s.relay.relayInNumber + 1 } }) ∧
    (s.executor.address = 0 ∨ 5 ≤ s.nonNotices → exec .relayInQueuing s = .next s)

/-- R169: the relay unit's boundary action: a countdown above 1 is decremented, and at 1 the message expires with its notice
and flag; an EMPTY box and a message without countdown are left alone. That the command takes it alone, for the current
superframe number, is the model's choice (notes/assumptions/8.md). -/
def Obligations.OutwardMessageCountsDownAndExpires : Prop :=
  ∀ s : State,
    (s.relay.outward = none → exec .relayExpiry s = .next s) ∧
    (∀ box, s.relay.outward = some box →
      (box.countdown = none → exec .relayExpiry s = .next s) ∧
      (∀ c, box.countdown = some c → 2 ≤ c.toNat →
        exec .relayExpiry s = .next { s with relay :=
          { s.relay with outward := some { box with countdown := some (c - 1) } } }) ∧
      (box.countdown = some 1 →
        let detail : ExpiredRelay :=
          { superframe := s.timing.number.superframe, length := BitVec.ofNat 8 box.payload.length }
        exec .relayExpiry s = .next (flagged
          { s with
            relay := { s.relay with outward := none }
            notices := { s.notices with relayExpired := some detail } }
          .outwardExpired)))

/-! ### The local control port (Chapter 10) -/

/-- R170, R171, R174: READ OUTWARD takes a held message, empties the box and makes RELAY_DELIVERED pending, or is answered
EMPTY; POST INWARD and WITHDRAW INWARD act by the state of the inward box. Each is taken at the last byte that it calls for,
and POST INWARD with a length outside 1 to 120 at its length byte. -/
def Obligations.RelayBoxCommands : Prop :=
  ∀ s : State,
    (s.port.transaction = .collecting [] →
      (s.relay.outward = none → exec (.readOutward [0x02] .inside) s = .next (answered 0x02 [0x81] s)) ∧
      (∀ box, s.relay.outward = some box →
        exec (.readOutward [0x02] .inside) s =
          .next (answered 0x02 ([0x80, BitVec.ofNat 8 box.payload.length] ++ box.payload)
            { s with
              relay := { s.relay with outward := none }
              notices := { s.notices with relayDelivered := some (BitVec.ofNat 8 box.payload.length) } }))) ∧
    (∀ length : Byte, s.port.transaction = .collecting [0x03] → length.toNat = 0 ∨ 121 ≤ length.toNat →
      exec (.postInward [length] .inside) s = .next (answered 0x03 [0x83] s)) ∧
    (∀ (length b : Byte) (payload : List Byte), s.port.transaction = .collecting (0x03 :: length :: payload) →
      length.toNat ≤ 120 → payload.length + 1 = length.toNat →
      (s.relay.inward = .empty → exec (.postInward [b] .inside) s = .next (answered 0x03 [0x80]
        { s with relay := { s.relay with inward := .posted (payload ++ [b]) } })) ∧
      (s.relay.inward ≠ .empty → exec (.postInward [b] .inside) s = .next (answered 0x03 [0x82] s))) ∧
    (s.port.transaction = .collecting [] →
      (s.relay.inward = .empty → exec (.withdrawInward [0x04] .inside) s = .next (answered 0x04 [0x81] s)) ∧
      (∀ p, s.relay.inward = .posted p → exec (.withdrawInward [0x04] .inside) s =
        .next (answered 0x04 [0x80] { s with relay := { s.relay with inward := .empty } })) ∧
      (∀ p before x behind, s.relay.inward = .queued p → s.inbound.queue = before ++ [x] ++ behind →
        x.link = .inwardBox → (∀ y ∈ before ++ behind, y.link ≠ .inwardBox) →
        exec (.withdrawInward [0x04] .inside) s = .next (answered 0x04 [0x80]
          { s with
            relay := { s.relay with inward := .empty }
            inbound := { s.inbound with queue := before ++ behind } })) ∧
      (∀ p, s.relay.inward = .sending p →
        exec (.withdrawInward [0x04] .inside) s = .next (answered 0x04 [0x82] s)))

/-- R180, R182: STATUS returns the node picture and READ FLAGS the flags and the mask; they change nothing but the
transaction. R179: a byte that names no command is answered UNKNOWN. R178, R185: a transaction begins with LSEL and ends with
it wherever it stands; LDO carries 00H before the command is taken, then the response, then 00H; a byte after the taking is
ignored; after a device reset the port waits for LSEL to be released; and a stretch of bytes does what its parts do one after
another. The model's choices: with LSEL released no byte is shifted in (notes/assumptions/5.md), and a stretch of another
row's transaction changes nothing (notes/assumptions/22.md). -/
def Obligations.LocalReadsRespondAndChangeNothing : Prop :=
  (∀ s : State, s.port.transaction = .collecting [] →
    (∃ length : Byte, (s.relay.outward = none → length = 0) ∧
      (∀ box, s.relay.outward = some box → length = BitVec.ofNat 8 box.payload.length) ∧
      exec (.status [0x01] .inside) s = .next (answered 0x01
        ([0x80] ++ sixBytes s.identity ++
          [s.executor.address, s.headPort.lock.code, s.tailPort.lock.code, if s.headLostSeen then 0x01 else 0x00,
            s.plan.state.code, if s.relay.outward = none then 0x00 else 0x01, length, s.relay.inward.code,
            if s.port.channelLock then 0x01 else 0x00]) s)) ∧
    exec (.readFlags [0x05] .inside) s =
      .next (answered 0x05 [0x80, 0#1 ++ s.port.flags, 0#1 ++ s.port.mask] s) ∧
    (∀ code : Byte, code.toNat = 0 ∨ 10 ≤ code.toNat →
      exec (.unknownCommand [code] .inside) s = .next (answered code [0x84] s))) ∧
  ∀ (row : Option LocalCommand) (s : State),
    (s.port.transaction = .closed →
      exec (localRow row [] .opening) s =
        .next (inTransaction (.collecting []) s) ∧
      ∀ bytes released, exec (localRow row bytes { asserted := false, released := released }) s = .next s) ∧
    (OfRow row s [] .closing →
      exec (localRow row [] .closing) s = .next (inTransaction .closed s)) ∧
    (∀ b : Byte,
      (∀ code rest, s.port.transaction = .responding code rest → readLocalCommand code = row →
        exec (localRow row [b] .inside) s =
          .next (inTransaction (.responding code rest.tail) (ldoCarried (rest.headD 0x00) s))) ∧
      (s.port.transaction = .barred → exec (localRow row [b] .inside) s = .next (ldoCarried 0x00 s)) ∧
      let goesOn := fun before : List Byte =>
        exec (localRow row [b] .inside) s = .next (inTransaction (.collecting (before ++ [b])) (ldoCarried 0x00 s))
      (s.port.transaction = .collecting [] →
        (row = some .postInward ∧ b = 0x03) ∨ (row = some .clearFlags ∧ b = 0x06) ∨ (row = some .setMask ∧ b = 0x07) →
        goesOn []) ∧
      (s.port.transaction = .collecting [0x03] → row = some .postInward → 1 ≤ b.toNat → b.toNat ≤ 120 →
        goesOn [0x03]) ∧
      (∀ (length : Byte) (payload : List Byte), s.port.transaction = .collecting (0x03 :: length :: payload) →
        row = some .postInward → length.toNat ≤ 120 → payload.length + 1 < length.toNat →
        goesOn (0x03 :: length :: payload))) ∧
    (∀ bytes edges, ¬OfRow row s bytes edges → exec (localRow row bytes edges) s = .next s) ∧
    ∀ (asserted released : Bool) (before after : List Byte),
      OfRow row s (before ++ after) { asserted := asserted, released := released } →
      ∃ t, exec (localRow row before { asserted := asserted, released := false }) s = .next t ∧
        exec (localRow row (before ++ after) { asserted := asserted, released := released }) s =
          exec (localRow row after { asserted := false, released := released }) t

/-- R182, R183, R184: CLEAR FLAGS clears the flags named, SET MASK replaces the mask, bit 7 of the argument ignored; SET LOCK
and CLEAR LOCK write the channel lock; and LINT is asserted afterwards exactly while a flag is set whose mask position is
set. Each is taken at the last byte that it calls for (R178). -/
def Obligations.LocalWritesFlagsMaskAndLock : Prop :=
  ∀ (s : State) (named : Byte),
    (s.port.transaction = .collecting [0x06] → ∃ (flags : BitVec 7) (t : State),
      (∀ f : LocalFlag, flags.getLsbD f.bit = (s.port.hasFlag f && !named.getLsbD f.bit)) ∧
      t = answered 0x06 [0x80, 0#1 ++ flags] { s with port := { s.port with flags := flags } } ∧
      exec (.clearFlags [named] .inside) s = .next t ∧
      (t.lint = true ↔ ∃ f : LocalFlag, flags.getLsbD f.bit = true ∧ s.port.mask.getLsbD f.bit = true)) ∧
    (s.port.transaction = .collecting [0x07] → ∃ (mask : BitVec 7) (t : State),
      (∀ f : LocalFlag, mask.getLsbD f.bit = named.getLsbD f.bit) ∧
      t = answered 0x07 [0x80, 0#1 ++ mask] { s with port := { s.port with mask := mask } } ∧
      exec (.setMask [named] .inside) s = .next t ∧
      (t.lint = true ↔ ∃ f : LocalFlag, s.port.hasFlag f = true ∧ mask.getLsbD f.bit = true)) ∧
    (s.lint = true ↔ ∃ f : LocalFlag, s.port.hasFlag f = true ∧ s.port.mask.getLsbD f.bit = true) ∧
    (s.port.transaction = .collecting [] →
      exec (.setLock [0x08] .inside) s =
        .next (answered 0x08 [0x80] { s with port := { s.port with channelLock := true } }) ∧
      exec (.clearLock [0x09] .inside) s =
        .next (answered 0x09 [0x80] { s with port := { s.port with channelLock := false } }))

/-! ### Invariants that every step keeps -/

/-- R2 to R4, R6, R8: the ports, the expected numbers, the watchdogs and the free-run timer agree. -/
def Obligations.StepKeepsPortsConsistent : Prop :=
  ∀ s t : State, PortsConsistent s → step s = .next t → PortsConsistent t

/-- R40, R46, R47: the changeover record agrees with the changeover state, and both banks obey the output-target law. -/
def Obligations.StepKeepsPlanConsistent : Prop :=
  ∀ s t : State, PlanConsistent s → step s = .next t → PlanConsistent t

/-- R64: a disabled channel offers and holds zero. -/
def Obligations.StepKeepsDisabledChannelsZero : Prop :=
  ∀ s t : State, DisabledChannelsZero s → step s = .next t → DisabledChannelsZero t

/-- R87, R144, R165 and the ranges of Chapters 8 and 10: the queues never hold more than they may, and the numbers stay in
their ranges. -/
def Obligations.StepKeepsBoundsOfQueuesAndNumbers : Prop :=
  ∀ s t : State, QueuesBounded s → NumbersInRange s → step s = .next t → QueuesBounded t ∧ NumbersInRange t

/-- R104, R137, R138, R146, R168: slots, inbound receiver, completion order and emission agree, and the outgoing queue holds
exactly the messages that the inward box and the reset-wait are waiting for. -/
def Obligations.StepKeepsServiceUnitConsistent : Prop :=
  ∀ s t : State, PassBufferConsistent s → LinksConsistent s → step s = .next t →
    PassBufferConsistent t ∧ LinksConsistent t

/-- Every invariant of Safety.lean holds right after a device reset. -/
def Obligations.ResetStateMeetsEveryInvariant : Prop :=
  PortsConsistent State.reset ∧ PlanConsistent State.reset ∧ DisabledChannelsZero State.reset ∧
    QueuesBounded State.reset ∧ NumbersInRange State.reset ∧ PassBufferConsistent State.reset ∧
    LinksConsistent State.reset
end

