-- ==== Sys2Proof/Laws/Channels.lean ====
section
/-! SUPPORT. What a table write does to the channel that each entry names, and what it leaves alone (R65), and what a
received word does (R69). -/

namespace Sys2Proof.Machine

theorem applyEntry_input_other (ch : ChannelUnit) (e : ChannelEntry) (k : Fin 8) (h : k.val ≠ e.position) :
    (ch.applyEntry e).inputs[k] = ch.inputs[k] := by
  cases e with
  | input j a b c =>
    simp only [ChannelEntry.position] at h
    simp only [ChannelUnit.applyEntry, Fin.getElem_fin]
    rw [Vector.getElem_set_ne]
    omega
  | output j a b => rfl

theorem applyEntry_output_other (ch : ChannelUnit) (e : ChannelEntry) (k : Fin 8) (h : k.val + 8 ≠ e.position) :
    (ch.applyEntry e).outputs[k] = ch.outputs[k] := by
  cases e with
  | input j a b c => rfl
  | output j a b =>
    simp only [ChannelEntry.position] at h
    simp only [ChannelUnit.applyEntry, Fin.getElem_fin]
    rw [Vector.getElem_set_ne]
    omega

/-- An input that no entry names is left alone. -/
theorem tableWrite_input_other (entries : List ChannelEntry) (ch : ChannelUnit) (k : Fin 8)
    (h : k.val ∉ entries.map ChannelEntry.position) : (ch.tableWrite entries).inputs[k] = ch.inputs[k] := by
  unfold ChannelUnit.tableWrite
  induction entries generalizing ch with
  | nil => rfl
  | cons e es ih =>
    simp only [List.map_cons, List.mem_cons, not_or] at h
    simp only [List.foldl_cons]
    rw [ih _ h.2, applyEntry_input_other _ _ _ h.1]

/-- An output that no entry names is left alone. -/
theorem tableWrite_output_other (entries : List ChannelEntry) (ch : ChannelUnit) (k : Fin 8)
    (h : k.val + 8 ∉ entries.map ChannelEntry.position) : (ch.tableWrite entries).outputs[k] = ch.outputs[k] := by
  unfold ChannelUnit.tableWrite
  induction entries generalizing ch with
  | nil => rfl
  | cons e es ih =>
    simp only [List.map_cons, List.mem_cons, not_or] at h
    simp only [List.foldl_cons]
    rw [ih _ h.2, applyEntry_output_other _ _ _ h.1]

@[simp] theorem tableWrite_converterFrame (entries : List ChannelEntry) (ch : ChannelUnit) :
    (ch.tableWrite entries).converterFrame = ch.converterFrame := by
  unfold ChannelUnit.tableWrite
  induction entries generalizing ch with
  | nil => rfl
  | cons e es ih =>
    simp only [List.foldl_cons]
    rw [ih]
    cases e <;> rfl

/-- The one entry that names an input writes it. -/
theorem tableWrite_input (entries : List ChannelEntry) (ch : ChannelUnit)
    (hn : (entries.map ChannelEntry.position).Nodup) (k : Fin 8) (enabled : Bool) (source : InputSource)
    (constant : Sample) (h : .input k enabled source constant ∈ entries) :
    (ch.tableWrite entries).inputs[k] = ch.inputs[k].tableWritten enabled source constant := by
  induction entries generalizing ch with
  | nil => simp at h
  | cons e es ih =>
    simp only [List.map_cons, List.nodup_cons] at hn
    simp only [List.mem_cons] at h
    show ((ch.applyEntry e).tableWrite es).inputs[k] = _
    rcases h with rfl | h
    · rw [tableWrite_input_other _ _ _ hn.1]
      simp [ChannelUnit.applyEntry]
    · rw [ih _ hn.2 h, applyEntry_input_other]
      intro hk
      exact hn.1 (hk ▸ List.mem_map.2 ⟨_, h, rfl⟩)

/-- The one entry that names an output writes it. -/
theorem tableWrite_output (entries : List ChannelEntry) (ch : ChannelUnit)
    (hn : (entries.map ChannelEntry.position).Nodup) (k : Fin 8) (enabled : Bool) (policy : VacancyPolicy)
    (h : .output k enabled policy ∈ entries) :
    (ch.tableWrite entries).outputs[k] = ch.outputs[k].tableWritten enabled policy := by
  induction entries generalizing ch with
  | nil => simp at h
  | cons e es ih =>
    simp only [List.map_cons, List.nodup_cons] at hn
    simp only [List.mem_cons] at h
    show ((ch.applyEntry e).tableWrite es).outputs[k] = _
    rcases h with rfl | h
    · rw [tableWrite_output_other _ _ _ hn.1]
      simp [ChannelUnit.applyEntry]
    · rw [ih _ hn.2 h, applyEntry_output_other]
      intro hk
      exact hn.1 (hk ▸ List.mem_map.2 ⟨_, h, rfl⟩)

/-! ### The input words (R69) -/

/-- A channel's turn is that of the frame in progress whose next word is the channel's. -/
theorem ChannelUnit.turnOf_eq_some {ch : ChannelUnit} {k : Fin 8} {f : ConverterFrame} :
    ch.turnOf k = some f ↔ ch.converterFrame = some f ∧ f.next = k := by
  unfold ChannelUnit.turnOf
  cases ch.converterFrame with
  | none => simp
  | some g =>
    by_cases h : g.next = k
    · simp only [h, if_true, Option.some.injEq]
      exact ⟨fun e => ⟨e, e ▸ h⟩, And.left⟩
    · simp only [h, if_false, Option.some.injEq, reduceCtorEq, false_iff]
      rintro ⟨rfl, e⟩
      exact h e

/-- Everything a received word can do: nothing out of turn, and in its turn one register and the frame's progress. -/
theorem ChannelUnit.wordReceived_cases (ch : ChannelUnit) (k : Fin 8) (w : Sample) :
    (ch.turnOf k = none ∧ ch.wordReceived k w = ch ∧ ch.wordSent k = []) ∨
    ∃ f, ch.turnOf k = some f ∧ ch.wordSent k = [.word f.words[k]] ∧ ch.wordReceived k w =
      { ch with
        inputs := ch.inputs.set k { ch.inputs[k] with word := w }
        converterFrame := if k = 7 then none else some { f with next := k + 1 } } := by
  unfold ChannelUnit.wordReceived ChannelUnit.wordSent
  cases h : ch.turnOf k with
  | none => exact .inl ⟨rfl, rfl, rfl⟩
  | some f => exact .inr ⟨f, rfl, rfl, rfl⟩

end Sys2Proof.Machine
end

