-- ==== Sys2Proof/Laws/State.lean ====
section
/-! SUPPORT. One lemma per field for each named update of the state, true by unfolding, so that no later proof unfolds a
record update. -/

namespace Sys2Proof.Machine

/-! ### Local flags -/

@[simp] theorem State.setFlag_identity (s : State) (f : LocalFlag) : (s.setFlag f).identity = s.identity := rfl
@[simp] theorem State.setFlag_timing (s : State) (f : LocalFlag) : (s.setFlag f).timing = s.timing := rfl
@[simp] theorem State.setFlag_headPort (s : State) (f : LocalFlag) : (s.setFlag f).headPort = s.headPort := rfl
@[simp] theorem State.setFlag_headLostSeen (s : State) (f : LocalFlag) :
    (s.setFlag f).headLostSeen = s.headLostSeen := rfl
@[simp] theorem State.setFlag_tailPort (s : State) (f : LocalFlag) : (s.setFlag f).tailPort = s.tailPort := rfl
@[simp] theorem State.setFlag_plan (s : State) (f : LocalFlag) : (s.setFlag f).plan = s.plan := rfl
@[simp] theorem State.setFlag_chan (s : State) (f : LocalFlag) : (s.setFlag f).chan = s.chan := rfl
@[simp] theorem State.setFlag_receiver (s : State) (f : LocalFlag) : (s.setFlag f).receiver = s.receiver := rfl
@[simp] theorem State.setFlag_executor (s : State) (f : LocalFlag) : (s.setFlag f).executor = s.executor := rfl
@[simp] theorem State.setFlag_inbound (s : State) (f : LocalFlag) : (s.setFlag f).inbound = s.inbound := rfl
@[simp] theorem State.setFlag_notices (s : State) (f : LocalFlag) : (s.setFlag f).notices = s.notices := rfl
@[simp] theorem State.setFlag_relay (s : State) (f : LocalFlag) : (s.setFlag f).relay = s.relay := rfl
@[simp] theorem State.setFlag_port (s : State) (f : LocalFlag) : (s.setFlag f).port = s.port.withFlag f := rfl
@[simp] theorem State.setFlag_wires (s : State) (f : LocalFlag) : (s.setFlag f).wires = s.wires := rfl
@[simp] theorem State.setFlag_pending (s : State) (f : LocalFlag) : (s.setFlag f).pending = s.pending := rfl

@[simp] theorem LocalPort.withFlag_flags (p : LocalPort) (f : LocalFlag) :
    (p.withFlag f).flags = p.flags ||| (1#7 <<< f.bit) := rfl
@[simp] theorem LocalPort.withFlag_mask (p : LocalPort) (f : LocalFlag) : (p.withFlag f).mask = p.mask := rfl
@[simp] theorem LocalPort.withFlag_channelLock (p : LocalPort) (f : LocalFlag) :
    (p.withFlag f).channelLock = p.channelLock := rfl
@[simp] theorem LocalPort.withFlag_transaction (p : LocalPort) (f : LocalFlag) :
    (p.withFlag f).transaction = p.transaction := rfl

/-! ### The outgoing queue -/

@[simp] theorem State.enqueue_identity (s : State) (m : Message) (l : OutLink) :
    (s.enqueue m l).identity = s.identity := rfl
@[simp] theorem State.enqueue_timing (s : State) (m : Message) (l : OutLink) : (s.enqueue m l).timing = s.timing := rfl
@[simp] theorem State.enqueue_headPort (s : State) (m : Message) (l : OutLink) :
    (s.enqueue m l).headPort = s.headPort := rfl
@[simp] theorem State.enqueue_headLostSeen (s : State) (m : Message) (l : OutLink) :
    (s.enqueue m l).headLostSeen = s.headLostSeen := rfl
@[simp] theorem State.enqueue_tailPort (s : State) (m : Message) (l : OutLink) :
    (s.enqueue m l).tailPort = s.tailPort := rfl
@[simp] theorem State.enqueue_plan (s : State) (m : Message) (l : OutLink) : (s.enqueue m l).plan = s.plan := rfl
@[simp] theorem State.enqueue_chan (s : State) (m : Message) (l : OutLink) : (s.enqueue m l).chan = s.chan := rfl
@[simp] theorem State.enqueue_receiver (s : State) (m : Message) (l : OutLink) :
    (s.enqueue m l).receiver = s.receiver := rfl
@[simp] theorem State.enqueue_executor (s : State) (m : Message) (l : OutLink) :
    (s.enqueue m l).executor = s.executor := rfl
@[simp] theorem State.enqueue_notices (s : State) (m : Message) (l : OutLink) :
    (s.enqueue m l).notices = s.notices := rfl
@[simp] theorem State.enqueue_relay (s : State) (m : Message) (l : OutLink) : (s.enqueue m l).relay = s.relay := rfl
@[simp] theorem State.enqueue_port (s : State) (m : Message) (l : OutLink) : (s.enqueue m l).port = s.port := rfl
@[simp] theorem State.enqueue_wires (s : State) (m : Message) (l : OutLink) : (s.enqueue m l).wires = s.wires := rfl
@[simp] theorem State.enqueue_pending (s : State) (m : Message) (l : OutLink) :
    (s.enqueue m l).pending = s.pending := rfl
@[simp] theorem State.enqueue_queue (s : State) (m : Message) (l : OutLink) :
    (s.enqueue m l).inbound.queue = s.inbound.queue ++ [{ message := m, link := l }] := rfl
@[simp] theorem State.enqueue_slots (s : State) (m : Message) (l : OutLink) :
    (s.enqueue m l).inbound.slots = s.inbound.slots := rfl
@[simp] theorem State.enqueue_order (s : State) (m : Message) (l : OutLink) :
    (s.enqueue m l).inbound.order = s.inbound.order := rfl
@[simp] theorem State.enqueue_rx (s : State) (m : Message) (l : OutLink) :
    (s.enqueue m l).inbound.rx = s.inbound.rx := rfl
@[simp] theorem State.enqueue_emission (s : State) (m : Message) (l : OutLink) :
    (s.enqueue m l).inbound.emission = s.inbound.emission := rfl
@[simp] theorem State.enqueue_lastWinner (s : State) (m : Message) (l : OutLink) :
    (s.enqueue m l).inbound.lastWinner = s.inbound.lastWinner := rfl
@[simp] theorem State.enqueue_noticeNumber (s : State) (m : Message) (l : OutLink) :
    (s.enqueue m l).inbound.noticeNumber = s.inbound.noticeNumber := rfl
@[simp] theorem State.enqueue_checkErrors (s : State) (m : Message) (l : OutLink) :
    (s.enqueue m l).inbound.checkErrors = s.inbound.checkErrors := rfl
@[simp] theorem State.enqueue_passDropped (s : State) (m : Message) (l : OutLink) :
    (s.enqueue m l).inbound.passDropped = s.inbound.passDropped := rfl

/-! ### The transaction and LDO -/

@[simp] theorem State.withTransaction_identity (s : State) (x : Transaction) : (s.withTransaction x).identity = s.identity := rfl
@[simp] theorem State.withTransaction_timing (s : State) (x : Transaction) : (s.withTransaction x).timing = s.timing := rfl
@[simp] theorem State.withTransaction_headPort (s : State) (x : Transaction) : (s.withTransaction x).headPort = s.headPort := rfl
@[simp] theorem State.withTransaction_headLostSeen (s : State) (x : Transaction) : (s.withTransaction x).headLostSeen = s.headLostSeen := rfl
@[simp] theorem State.withTransaction_tailPort (s : State) (x : Transaction) : (s.withTransaction x).tailPort = s.tailPort := rfl
@[simp] theorem State.withTransaction_plan (s : State) (x : Transaction) : (s.withTransaction x).plan = s.plan := rfl
@[simp] theorem State.withTransaction_chan (s : State) (x : Transaction) : (s.withTransaction x).chan = s.chan := rfl
@[simp] theorem State.withTransaction_receiver (s : State) (x : Transaction) : (s.withTransaction x).receiver = s.receiver := rfl
@[simp] theorem State.withTransaction_executor (s : State) (x : Transaction) : (s.withTransaction x).executor = s.executor := rfl
@[simp] theorem State.withTransaction_inbound (s : State) (x : Transaction) : (s.withTransaction x).inbound = s.inbound := rfl
@[simp] theorem State.withTransaction_notices (s : State) (x : Transaction) : (s.withTransaction x).notices = s.notices := rfl
@[simp] theorem State.withTransaction_relay (s : State) (x : Transaction) : (s.withTransaction x).relay = s.relay := rfl
@[simp] theorem State.withTransaction_wires (s : State) (x : Transaction) : (s.withTransaction x).wires = s.wires := rfl
@[simp] theorem State.withTransaction_pending (s : State) (x : Transaction) : (s.withTransaction x).pending = s.pending := rfl
@[simp] theorem State.withTransaction_flags (s : State) (x : Transaction) :
    (s.withTransaction x).port.flags = s.port.flags := rfl
@[simp] theorem State.withTransaction_mask (s : State) (x : Transaction) :
    (s.withTransaction x).port.mask = s.port.mask := rfl
@[simp] theorem State.withTransaction_channelLock (s : State) (x : Transaction) :
    (s.withTransaction x).port.channelLock = s.port.channelLock := rfl
@[simp] theorem State.withTransaction_transaction (s : State) (x : Transaction) :
    (s.withTransaction x).port.transaction = x := rfl

@[simp] theorem State.shiftOut_identity (s : State) (b : Byte) : (s.shiftOut b).identity = s.identity := rfl
@[simp] theorem State.shiftOut_timing (s : State) (b : Byte) : (s.shiftOut b).timing = s.timing := rfl
@[simp] theorem State.shiftOut_headPort (s : State) (b : Byte) : (s.shiftOut b).headPort = s.headPort := rfl
@[simp] theorem State.shiftOut_headLostSeen (s : State) (b : Byte) : (s.shiftOut b).headLostSeen = s.headLostSeen := rfl
@[simp] theorem State.shiftOut_tailPort (s : State) (b : Byte) : (s.shiftOut b).tailPort = s.tailPort := rfl
@[simp] theorem State.shiftOut_plan (s : State) (b : Byte) : (s.shiftOut b).plan = s.plan := rfl
@[simp] theorem State.shiftOut_chan (s : State) (b : Byte) : (s.shiftOut b).chan = s.chan := rfl
@[simp] theorem State.shiftOut_receiver (s : State) (b : Byte) : (s.shiftOut b).receiver = s.receiver := rfl
@[simp] theorem State.shiftOut_executor (s : State) (b : Byte) : (s.shiftOut b).executor = s.executor := rfl
@[simp] theorem State.shiftOut_inbound (s : State) (b : Byte) : (s.shiftOut b).inbound = s.inbound := rfl
@[simp] theorem State.shiftOut_notices (s : State) (b : Byte) : (s.shiftOut b).notices = s.notices := rfl
@[simp] theorem State.shiftOut_relay (s : State) (b : Byte) : (s.shiftOut b).relay = s.relay := rfl
@[simp] theorem State.shiftOut_port (s : State) (b : Byte) : (s.shiftOut b).port = s.port := rfl
@[simp] theorem State.shiftOut_pending (s : State) (b : Byte) : (s.shiftOut b).pending = s.pending := rfl
@[simp] theorem State.shiftOut_tailSent (s : State) (b : Byte) : (s.shiftOut b).wires.tailSent = s.wires.tailSent := rfl
@[simp] theorem State.shiftOut_headTx (s : State) (b : Byte) : (s.shiftOut b).wires.headTx = s.wires.headTx := rfl
@[simp] theorem State.shiftOut_headSent (s : State) (b : Byte) : (s.shiftOut b).wires.headSent = s.wires.headSent := rfl
@[simp] theorem State.shiftOut_converterSent (s : State) (b : Byte) : (s.shiftOut b).wires.converterSent = s.wires.converterSent := rfl
@[simp] theorem State.shiftOut_ldo (s : State) (b : Byte) : (s.shiftOut b).wires.ldo = s.wires.ldo ++ [b] := rfl

/-! ### The converter exchange -/

@[simp] theorem State.exchange_identity (s : State) : s.exchange.identity = s.identity := rfl
@[simp] theorem State.exchange_timing (s : State) : s.exchange.timing = s.timing := rfl
@[simp] theorem State.exchange_headPort (s : State) : s.exchange.headPort = s.headPort := rfl
@[simp] theorem State.exchange_headLostSeen (s : State) : s.exchange.headLostSeen = s.headLostSeen := rfl
@[simp] theorem State.exchange_tailPort (s : State) : s.exchange.tailPort = s.tailPort := rfl
@[simp] theorem State.exchange_plan (s : State) : s.exchange.plan = s.plan := rfl
@[simp] theorem State.exchange_receiver (s : State) : s.exchange.receiver = s.receiver := rfl
@[simp] theorem State.exchange_executor (s : State) : s.exchange.executor = s.executor := rfl
@[simp] theorem State.exchange_inbound (s : State) : s.exchange.inbound = s.inbound := rfl
@[simp] theorem State.exchange_notices (s : State) : s.exchange.notices = s.notices := rfl
@[simp] theorem State.exchange_relay (s : State) : s.exchange.relay = s.relay := rfl
@[simp] theorem State.exchange_port (s : State) : s.exchange.port = s.port := rfl
@[simp] theorem State.exchange_pending (s : State) : s.exchange.pending = s.pending := rfl
@[simp] theorem State.exchange_chan (s : State) : s.exchange.chan = s.chan.exchange := rfl
@[simp] theorem State.exchange_tailSent (s : State) : s.exchange.wires.tailSent = s.wires.tailSent := rfl
@[simp] theorem State.exchange_headTx (s : State) : s.exchange.wires.headTx = s.wires.headTx := rfl
@[simp] theorem State.exchange_headSent (s : State) : s.exchange.wires.headSent = s.wires.headSent := rfl
@[simp] theorem State.exchange_ldo (s : State) : s.exchange.wires.ldo = s.wires.ldo := rfl
@[simp] theorem State.exchange_converterSent (s : State) :
    s.exchange.wires.converterSent = s.wires.converterSent ++ [.frameStart] := rfl

/-! ### Pass-through slots and the inbound receiver -/

@[simp] theorem InboundUnit.setSlot_slots (u : InboundUnit) (k : Fin 2) (x : PassSlot) :
    (u.setSlot k x).slots = u.slots.set k x := rfl
@[simp] theorem InboundUnit.setSlot_order (u : InboundUnit) (k : Fin 2) (x : PassSlot) :
    (u.setSlot k x).order = u.order := rfl
@[simp] theorem InboundUnit.setSlot_rx (u : InboundUnit) (k : Fin 2) (x : PassSlot) : (u.setSlot k x).rx = u.rx := rfl
@[simp] theorem InboundUnit.setSlot_queue (u : InboundUnit) (k : Fin 2) (x : PassSlot) :
    (u.setSlot k x).queue = u.queue := rfl
@[simp] theorem InboundUnit.setSlot_emission (u : InboundUnit) (k : Fin 2) (x : PassSlot) :
    (u.setSlot k x).emission = u.emission := rfl
@[simp] theorem InboundUnit.setSlot_lastWinner (u : InboundUnit) (k : Fin 2) (x : PassSlot) :
    (u.setSlot k x).lastWinner = u.lastWinner := rfl
@[simp] theorem InboundUnit.setSlot_noticeNumber (u : InboundUnit) (k : Fin 2) (x : PassSlot) :
    (u.setSlot k x).noticeNumber = u.noticeNumber := rfl

@[simp] theorem InboundUnit.abandon_slots (u : InboundUnit) (k : Fin 2) :
    (u.abandon k).slots = u.slots.set k .free := rfl
@[simp] theorem InboundUnit.abandon_rx (u : InboundUnit) (k : Fin 2) : (u.abandon k).rx = .idle := rfl
@[simp] theorem InboundUnit.abandon_order (u : InboundUnit) (k : Fin 2) : (u.abandon k).order = u.order := rfl
@[simp] theorem InboundUnit.abandon_queue (u : InboundUnit) (k : Fin 2) : (u.abandon k).queue = u.queue := rfl
@[simp] theorem InboundUnit.abandon_emission (u : InboundUnit) (k : Fin 2) :
    (u.abandon k).emission = u.emission := rfl
@[simp] theorem InboundUnit.abandon_lastWinner (u : InboundUnit) (k : Fin 2) :
    (u.abandon k).lastWinner = u.lastWinner := rfl
@[simp] theorem InboundUnit.abandon_noticeNumber (u : InboundUnit) (k : Fin 2) :
    (u.abandon k).noticeNumber = u.noticeNumber := rfl

@[simp] theorem InboundUnit.checkError_slots (u : InboundUnit) : u.checkError.slots = u.slots := rfl
@[simp] theorem InboundUnit.checkError_rx (u : InboundUnit) : u.checkError.rx = u.rx := rfl
@[simp] theorem InboundUnit.checkError_order (u : InboundUnit) : u.checkError.order = u.order := rfl
@[simp] theorem InboundUnit.checkError_queue (u : InboundUnit) : u.checkError.queue = u.queue := rfl
@[simp] theorem InboundUnit.checkError_emission (u : InboundUnit) : u.checkError.emission = u.emission := rfl
@[simp] theorem InboundUnit.checkError_lastWinner (u : InboundUnit) : u.checkError.lastWinner = u.lastWinner := rfl
@[simp] theorem InboundUnit.checkError_noticeNumber (u : InboundUnit) :
    u.checkError.noticeNumber = u.noticeNumber := rfl

/-! ### The plan store -/

@[simp] theorem PlanStore.setBank_live (p : PlanStore) (n : BankName) (b : Bank) : (p.setBank n b).live = p.live := by
  cases n <;> rfl
@[simp] theorem PlanStore.setBank_state (p : PlanStore) (n : BankName) (b : Bank) :
    (p.setBank n b).state = p.state := by
  cases n <;> rfl
@[simp] theorem PlanStore.setBank_target (p : PlanStore) (n : BankName) (b : Bank) :
    (p.setBank n b).target = p.target := by
  cases n <;> rfl
@[simp] theorem PlanStore.setBank_applied (p : PlanStore) (n : BankName) (b : Bank) :
    (p.setBank n b).applied = p.applied := by
  cases n <;> rfl
@[simp] theorem PlanStore.setBank_oldBank (p : PlanStore) (n : BankName) (b : Bank) :
    (p.setBank n b).oldBank = p.oldBank := by
  cases n <;> rfl
@[simp] theorem PlanStore.setBank_lateChangeovers (p : PlanStore) (n : BankName) (b : Bank) :
    (p.setBank n b).lateChangeovers = p.lateChangeovers := by
  cases n <;> rfl

/-- A bank reads back as it was set. -/
@[simp] theorem PlanStore.bank_setBank (p : PlanStore) (n : BankName) (b : Bank) : (p.setBank n b).bank n = b := by
  cases n <;> rfl

/-- Setting one bank leaves the other. -/
theorem PlanStore.bank_setBank_other (p : PlanStore) {n m : BankName} (h : m ≠ n) (b : Bank) :
    (p.setBank n b).bank m = p.bank m := by
  cases n <;> cases m <;> first | rfl | exact absurd rfl h

@[simp] theorem BankName.other_other (n : BankName) : n.other.other = n := by
  cases n <;> rfl

theorem BankName.other_ne (n : BankName) : n.other ≠ n := by
  cases n <;> decide

/-- A bank that is not the draft is the live one. -/
theorem PlanStore.eq_live_of_ne_draft (p : PlanStore) {n : BankName} (h : n ≠ p.draft) : n = p.live := by
  revert h
  unfold PlanStore.draft
  cases n <;> cases p.live <;> decide

@[simp] theorem Bank.plan_setPlan (b : Bank) (d : Direction) (p : Plan) : (b.setPlan d p).plan d = p := by
  cases d <;> rfl

/-- Setting the plan of one direction leaves the other. -/
theorem Bank.plan_setPlan_other (b : Bank) {d e : Direction} (h : e ≠ d) (p : Plan) :
    (b.setPlan d p).plan e = b.plan e := by
  cases d <;> cases e <;> first | rfl | exact absurd rfl h

end Sys2Proof.Machine
end

