-- ==== Sys2Proof/Laws/Executor.lean ====
section
/-! SUPPORT. What taking, checking, executing and answering a request can do (Chapters 6 and 7). -/

namespace Sys2Proof.Machine

/-! ### Kind codes -/

/-- A Kind byte names the request kind whose code it is. -/
@[simp] theorem readKind_code (k : RequestKind) : readKind k.code = some k := by
  cases k <;> decide

theorem eq_code_of_readKind {b : Byte} {k : RequestKind} (h : readKind b = some k) : b = k.code := by
  unfold readKind at h
  have := List.find?_some h
  simp only [beq_iff_eq] at this
  exact this.symm

theorem readKind_eq_none {b : Byte} (h : ∀ k : RequestKind, b ≠ k.code) : readKind b = none := by
  cases hk : readKind b with
  | none => rfl
  | some k => exact absurd (eq_code_of_readKind hk) (h k)

/-! ### Taking a request (R92, R94, R95) -/

/-- The state in which the executor deals with a request that it has removed from the queue. -/
def State.removed (s : State) (rest : List Request) : State :=
  { s with
    receiver := { s.receiver with requests := rest }
    executor := { s.executor with state := .ready } }

/-- Everything that taking the oldest request can do. -/
theorem takeOldest_cases (row : Request → Bool) (deal : Request → State → State) (s : State) :
    takeOldest row deal s = s ∨
    (s.executor.state ≠ .resetWait ∧
      takeOldest row deal s = { s with executor := { s.executor with state := .waiting } }) ∨
    (∃ r rest, s.receiver.requests = r :: rest ∧ s.executor.state ≠ .resetWait ∧ row r = true ∧ mustWait r s = false ∧
      takeOldest row deal s = deal r (s.removed rest)) := by
  unfold takeOldest
  split
  · exact .inl rfl
  · rename_i r rest hq
    split
    · exact .inl rfl
    · rename_i h1
      simp only [not_or, Bool.not_eq_false] at h1
      split
      · exact .inr (.inl ⟨h1.1, rfl⟩)
      · rename_i h2
        exact .inr (.inr ⟨r, rest, hq, h1.1, h1.2, by simpa using h2, rfl⟩)

/-- A request of the row that need not wait is dealt with. -/
theorem takeOldest_deals {row : Request → Bool} (deal : Request → State → State) {s : State} {r : Request}
    {rest : List Request} (hq : s.receiver.requests = r :: rest) (hs : s.executor.state ≠ .resetWait)
    (hr : row r = true) (hw : mustWait r s = false) : takeOldest row deal s = deal r (s.removed rest) := by
  unfold takeOldest
  rw [hq]
  simp only
  rw [if_neg (by simp [hs, hr]), if_neg (by simp [hw])]
  rfl

/-- A request of the row that must wait leaves everything but the executor state alone. -/
theorem takeOldest_waits {row : Request → Bool} (deal : Request → State → State) {s : State} {r : Request}
    {rest : List Request} (hq : s.receiver.requests = r :: rest) (hs : s.executor.state ≠ .resetWait)
    (hr : row r = true) (hw : mustWait r s = true) :
    takeOldest row deal s = { s with executor := { s.executor with state := .waiting } } := by
  unfold takeOldest
  rw [hq]
  simp only
  rw [if_neg (by simp [hs, hr]), if_pos hw]

theorem storeHit_eq_none {r : Request} {s : State}
    (h : r.addressing = .individual → r.sequence ≠ 0 → ∀ e, s.executor.lastReply = some e →
      ¬(e.kind = r.kind ∧ e.sequence = r.sequence)) : storeHit r s = none := by
  unfold storeHit
  split
  · rename_i e he
    rw [if_neg]
    rintro ⟨h1, h2, h3, h4⟩
    exact h h1 h2 e he ⟨h3, h4⟩
  · rfl

theorem storeHit_eq_some {r : Request} {s : State} {e : StoredReply} (h1 : r.addressing = .individual)
    (h2 : r.sequence ≠ 0) (he : s.executor.lastReply = some e) (h3 : e.kind = r.kind) (h4 : e.sequence = r.sequence) :
    storeHit r s = some e.reply := by
  unfold storeHit
  rw [he]
  simp only
  rw [if_pos ⟨h1, h2, h3, h4⟩]

/-- No kind but ASSIGN and ROLL CALL places a ROLL-CALL RETURN. -/
theorem placesReturn_eq_false {r : Request} {s : State} (h1 : readKind r.kind ≠ some .assign)
    (h2 : readKind r.kind ≠ some .rollCall) : placesReturn r s = false := by
  unfold placesReturn
  split
  · exact absurd ‹_› h1
  · exact absurd ‹_› h2
  · rfl

/-! ### Checking and executing (R97, R98) -/

/-- A request that passes the general checks fits its length, and is broadcast if its kind is executed as broadcast
alone. -/
theorem lengthFits_of_generalCheck {k : RequestKind} {r : Request} (h : generalCheck k r = none) :
    lengthFits k r.payload = true ∧ (broadcastOnly k = true → r.addressing = .broadcast) := by
  unfold generalCheck at h
  cases ha : r.addressing <;> rw [ha] at h <;> simp only at h
  · cases hb : broadcastOnly k <;> simp_all
  · cases hb : allowsBroadcast k <;> simp_all

/-- Everything that executing a request can do. -/
theorem execute_cases (k : RequestKind) (own : Request → State → Verdict) (r : Request) (s : State) :
    (∃ status, execute k own r s = answer s.executor.address r status [] s) ∨
    (∃ t data, generalCheck k r = none ∧ own r s = .run t data ∧
      execute k own r s = answer s.executor.address r .ok data t) := by
  unfold execute
  split
  · exact .inl ⟨_, rfl⟩
  · rename_i hg
    split
    · exact .inl ⟨_, rfl⟩
    · rename_i t data ht
      exact .inr ⟨t, data, hg, ht, rfl⟩

theorem execute_run {k : RequestKind} {own : Request → State → Verdict} {r : Request} {s t : State} {data : List Byte}
    (hg : generalCheck k r = none) (h : own r s = .run t data) :
    execute k own r s = answer s.executor.address r .ok data t := by
  unfold execute
  rw [hg]
  simp only
  rw [h]

theorem execute_refuse {k : RequestKind} {own : Request → State → Verdict} {r : Request} {s : State} {status : Status}
    (hg : generalCheck k r = none) (h : own r s = .refuse status) :
    execute k own r s = answer s.executor.address r status [] s := by
  unfold execute
  rw [hg]
  simp only
  rw [h]

/-! ### Answering (R96, R100, R101) -/

/-- The check of a message that the node builds is the one computed over it. -/
theorem buildMessage_check (source kind sequence : Byte) (payload : List Byte) :
    (buildMessage source kind sequence payload).check =
      messageCheck (buildMessage source kind sequence payload).body := by
  unfold buildMessage Message.sealed Message.body
  simp only

/-- An answer leaves a broadcast alone; for an individually addressed request it adds one REPLY at the tail of the outgoing
queue and may put it into the last-reply store. -/
theorem answer_cases (source : Byte) (r : Request) (status : Status) (data : List Byte) (s : State) :
    (r.addressing = .broadcast ∧ answer source r status data s = s) ∨
    (r.addressing = .individual ∧ ∃ lastReply,
      (lastReply = s.executor.lastReply ∨
        lastReply = some { kind := r.kind, sequence := r.sequence, reply := replyMessage source r status data }) ∧
      answer source r status data s =
        { s with
          inbound := { s.inbound with queue := s.inbound.queue ++
            [{ message := replyMessage source r status data, link := .plain }] }
          executor := { s.executor with lastReply := lastReply } }) := by
  unfold answer
  cases r.addressing with
  | broadcast => exact .inl ⟨rfl, rfl⟩
  | individual =>
    refine .inr ⟨rfl, ?_⟩
    unfold placeReply
    simp only
    split
    · exact ⟨_, .inl rfl, rfl⟩
    · exact ⟨_, .inr rfl, rfl⟩

/-! ### What the kinds' own effects leave alone (Chapter 7) -/

/-- What the effect of a request can do to the plan store: nothing, arming, cancelling, a write of the draft, or the
clearing of its counter. -/
def PlanWorked (p q : PlanStore) : Prop :=
  q = p ∨ ((p.state = .idle ∨ p.state = .armed) ∧ ∃ t, q = { p with state := .armed, target := some t }) ∨
    (p.state = .armed ∧ q = { p with state := .idle, target := none }) ∨
    (p.state = .idle ∧ ∃ b : Bank, b.lawful = true ∧ q = p.setBank p.draft b) ∨ q = { p with lateChangeovers := 0 }

/-- What the effect of a request can do to the channels: nothing, the clearing of the counters, or a table write. -/
def TableWorked (a b : ChannelUnit) : Prop :=
  b = a ∨ b = a.countersCleared ∨ ∃ entries, b = a.tableWrite entries

/-- What the effect of a request r can do to the inbound unit: nothing, the clearing of its counters, or one ROLL-CALL
RETURN more in the queue, which a broadcast alone can place. -/
def ReturnPlaced (r : Request) (s : State) (u v : InboundUnit) : Prop :=
  v = u ∨ (∃ a b, v = { u with checkErrors := a, passDropped := b }) ∨
    (r.addressing = .broadcast ∧ placesReturn r s = true ∧
      ∃ m : Message, m.kind = kindRollCallReturn ∧ v = { u with queue := u.queue ++ [{ message := m, link := .plain }] })

/-- What the effect of a request can do to the outward box: nothing, or a message of 1 to 120 bytes with a countdown that is
not 0. -/
def BoxFilled (a b : Option OutwardMessage) : Prop :=
  b = a ∨ ∃ box : OutwardMessage,
    1 ≤ box.payload.length ∧ box.payload.length ≤ 120 ∧ box.countdown ≠ some 0 ∧ b = some box

/-- What the own effect of a request of any kind but RESET NODE leaves of the node. -/
def OwnFrame (r : Request) (s t : State) : Prop :=
  ∃ hm hl tm tl plan chan a b c d executor inbound outward flags, t =
    { s with
      headPort := { s.headPort with misses := hm, losses := hl }
      tailPort := { s.tailPort with misses := tm, losses := tl }
      plan := plan
      chan := chan
      receiver := { s.receiver with
        sequenceErrors := a, lengthErrors := b, checkErrors := c, requestsDropped := d }
      executor := executor
      inbound := inbound
      relay := { s.relay with outward := outward }
      port := { s.port with flags := flags } } ∧
    PlanWorked s.plan plan ∧ TableWorked s.chan chan ∧ ReturnPlaced r s s.inbound inbound ∧
    BoxFilled s.relay.outward outward ∧ executor.state = s.executor.state ∧
    executor.lastReply = s.executor.lastReply ∧
    (executor.address = s.executor.address ∨ executor.address.toNat ≤ 62)

theorem OwnFrame.refl (r : Request) (s : State) : OwnFrame r s s :=
  ⟨_, _, _, _, _, _, _, _, _, _, _, _, _, _, rfl, .inl rfl, .inl rfl, .inl rfl, .inl rfl, rfl, rfl, .inl rfl⟩

theorem armOwn_frame {r : Request} {s t : State} {data : List Byte} (h : armOwn r s = .run t data) :
    OwnFrame r s t := by
  simp only [armOwn] at h
  split at h
  · cases h
  · cases h
  all_goals
    rename_i hs
    split at h
    · cases h
      exact ⟨_, _, _, _, _, _, _, _, _, _, _, _, _, _, rfl, .inr (.inl ⟨by simp [hs], _, rfl⟩), .inl rfl, .inl rfl,
        .inl rfl, rfl, rfl, .inl rfl⟩
    · cases h

theorem assignOwn_frame {r : Request} {s t : State} {data : List Byte} (hk : readKind r.kind = some .assign)
    (hg : generalCheck .assign r = none) (h : assignOwn r s = .run t data) : OwnFrame r s t := by
  obtain ⟨hl, hb⟩ := lengthFits_of_generalCheck hg
  simp only [assignOwn] at h
  split at h
  · cases h
    exact .refl r s
  · split at h
    · rename_i hn
      cases h
      refine ⟨_, _, _, _, _, _, _, _, _, _, _, _, _, _, rfl, .inl rfl, .inl rfl, .inr (.inr ⟨hb rfl, ?_, _, rfl, rfl⟩),
        .inl rfl, rfl, rfl, .inr ?_⟩
      · unfold placesReturn
        rw [hk]
        simp only [hl, hn]
        rfl
      · unfold assignNames at hn
        simp only [Bool.and_eq_true, decide_eq_true_eq] at hn
        exact hn.2
    · cases h

theorem cancelOwn_frame {r : Request} {s t : State} {data : List Byte} (h : cancelOwn r s = .run t data) :
    OwnFrame r s t := by
  simp only [cancelOwn] at h
  split at h
  · rename_i hs
    cases h
    exact ⟨_, _, _, _, _, _, _, _, _, _, _, _, _, _, rfl, .inr (.inr (.inl ⟨hs, rfl⟩)), .inl rfl, .inl rfl, .inl rfl,
      rfl, rfl, .inl rfl⟩
  all_goals cases h

/-- READ CHANNELS changes nothing of its own. -/
theorem readChannelsOwn_frame {r : Request} {s t : State} {data : List Byte} (h : readChannelsOwn r s = .run t data) :
    t = s := by
  simp only [readChannelsOwn] at h
  split at h <;> cases h
  rfl

theorem readCountersOwn_frame {r : Request} {s t : State} {data : List Byte} (h : readCountersOwn r s = .run t data) :
    OwnFrame r s t := by
  simp only [readCountersOwn] at h
  split at h
  · cases h
  · rename_i counters cleared hc
    split at h
    · cases h
      exact .refl r s
    · split at h
      · cases h
        unfold counterGroup at hc
        split at hc
        · cases hc
          exact ⟨_, _, _, _, _, _, _, _, _, _, _, _, _, _, rfl, .inl rfl, .inl rfl, .inl rfl, .inl rfl, rfl, rfl, .inl rfl⟩
        · split at hc
          · cases hc
            exact ⟨_, _, _, _, _, _, _, _, _, _, _, _, _, _, rfl, .inr (.inr (.inr (.inr rfl))), .inl rfl,
              .inr (.inl ⟨_, _, rfl⟩), .inl rfl, rfl, rfl, .inl rfl⟩
          · split at hc
            · cases hc
              exact ⟨_, _, _, _, _, _, _, _, _, _, _, _, _, _, rfl, .inl rfl, .inr (.inl rfl), .inl rfl, .inl rfl, rfl,
                rfl, .inl rfl⟩
            · cases hc
      · cases h

/-- READ PLAN changes nothing of its own. -/
theorem readPlanOwn_frame {r : Request} {s t : State} {data : List Byte} (h : readPlanOwn r s = .run t data) :
    t = s := by
  simp only [readPlanOwn] at h
  split at h
  · split at h
    · split at h <;> cases h
      rfl
    · cases h
  · cases h

theorem relayOutOwn_frame {r : Request} {s t : State} {data : List Byte} (hg : generalCheck .relayOut r = none)
    (h : relayOutOwn r s = .run t data) : OwnFrame r s t := by
  have hl : 1 ≤ r.payload.length ∧ r.payload.length ≤ 120 := by
    simpa [lengthFits] using (lengthFits_of_generalCheck hg).1
  simp only [relayOutOwn] at h
  split at h
  · cases h
  · cases h
    refine ⟨_, _, _, _, _, _, _, _, _, _, _, _, _, _, rfl, .inl rfl, .inl rfl, .inl rfl, .inr ⟨_, hl.1, hl.2, ?_, rfl⟩,
      rfl, rfl, .inl rfl⟩
    unfold loadedCountdown
    split
    · simp
    · rename_i hne
      simpa using hne

theorem releaseOwn_frame {r : Request} {s t : State} {data : List Byte} (h : releaseOwn r s = .run t data) :
    OwnFrame r s t := by
  simp only [releaseOwn] at h
  cases h
  exact ⟨_, _, _, _, _, _, _, _, _, _, _, _, _, _, rfl, .inl rfl, .inl rfl, .inl rfl, .inl rfl, rfl, rfl,
    .inr (show (0 : Byte).toNat ≤ 62 by decide)⟩

theorem rollCallOwn_frame {r : Request} {s t : State} {data : List Byte} (hk : readKind r.kind = some .rollCall)
    (hg : generalCheck .rollCall r = none) (h : rollCallOwn r s = .run t data) : OwnFrame r s t := by
  obtain ⟨hl, hb⟩ := lengthFits_of_generalCheck hg
  simp only [rollCallOwn] at h
  split at h
  · rename_i hv
    split at h
    · cases h
      exact .refl r s
    · rename_i hu
      cases h
      refine ⟨_, _, _, _, _, _, _, _, _, _, _, _, _, _, rfl, .inl rfl, .inl rfl, .inr (.inr ⟨hb rfl, ?_, _, rfl, rfl⟩),
        .inl rfl, rfl, rfl, .inl rfl⟩
      unfold placesReturn
      rw [hk]
      simp [hl, hv, hu]
  · cases h

theorem writeChannelsOwn_frame {r : Request} {s t : State} {data : List Byte} (h : writeChannelsOwn r s = .run t data) :
    OwnFrame r s t := by
  simp only [writeChannelsOwn] at h
  split at h
  · cases h
  · split at h
    · split at h
      · cases h
      · split at h <;> cases h
        exact ⟨_, _, _, _, _, _, _, _, _, _, _, _, _, _, rfl, .inl rfl, .inr (.inr ⟨_, rfl⟩), .inl rfl, .inl rfl, rfl, rfl,
          .inl rfl⟩
    · cases h

theorem writePlanOwn_frame {r : Request} {s t : State} {data : List Byte} (h : writePlanOwn r s = .run t data) :
    OwnFrame r s t := by
  simp only [writePlanOwn] at h
  split at h
  · cases h
  · cases h
  · cases h
  · rename_i hs
    split at h
    · cases h
    · split at h
      · split at h
        · cases h
        · split at h
          · rename_i hl
            cases h
            exact ⟨_, _, _, _, _, _, _, _, _, _, _, _, _, _, rfl, .inr (.inr (.inr (.inl ⟨hs, _, hl, rfl⟩))), .inl rfl,
              .inl rfl, .inl rfl, rfl, rfl, .inl rfl⟩
          · cases h
      · cases h

theorem writeSettingsOwn_frame {r : Request} {s t : State} {data : List Byte} (h : writeSettingsOwn r s = .run t data) :
    OwnFrame r s t := by
  simp only [writeSettingsOwn] at h
  split at h <;> cases h
  exact ⟨_, _, _, _, _, _, _, _, _, _, _, _, _, _, rfl, .inl rfl, .inl rfl, .inl rfl, .inl rfl, rfl, rfl, .inl rfl⟩

end Sys2Proof.Machine
end

