-- ==== Sys2Proof/Laws/Flags.lean ====
section
/-! SUPPORT. The sets of flags and notices, bit by bit. -/

namespace Sys2Proof.Machine

theorem LocalFlag.bit_lt (f : LocalFlag) : f.bit < 7 := by
  cases f <;> decide

/-- Every position of a local flag set is a flag's. -/
theorem LocalFlag.exists_bit {i : Nat} (h : i < 7) : ∃ f : LocalFlag, f.bit = i := by
  have : i ∈ List.range 7 := by simpa using h
  simp only [List.range, List.range.loop, List.mem_cons, List.not_mem_nil, or_false] at this
  rcases this with rfl | rfl | rfl | rfl | rfl | rfl | rfl
  exacts [⟨.outwardArrived, rfl⟩, ⟨.outwardExpired, rfl⟩, ⟨.inwardSent, rfl⟩, ⟨.headLost, rfl⟩, ⟨.changeover, rfl⟩,
    ⟨.addressChanged, rfl⟩, ⟨.nodeReset, rfl⟩]

/-- A conjunction of two sets is not empty exactly when they share a position. -/
theorem and_ne_zero_iff {n : Nat} (a b : BitVec n) :
    (a &&& b != 0) = true ↔ ∃ i < n, a.getLsbD i = true ∧ b.getLsbD i = true := by
  rw [bne_iff_ne]
  constructor
  · intro h
    by_contra hh
    apply h
    apply BitVec.eq_of_getLsbD_eq
    intro i hi
    rw [BitVec.getLsbD_and, show (0 : BitVec n) = 0#n from rfl, BitVec.getLsbD_zero]
    cases h1 : a.getLsbD i with
    | false => rfl
    | true =>
      cases h2 : b.getLsbD i with
      | false => rfl
      | true => exact absurd ⟨i, hi, h1, h2⟩ hh
  · rintro ⟨i, _, h1, h2⟩ h
    have := congrArg (fun x => BitVec.getLsbD x i) h
    simp [h1, h2] at this

/-- The bits of ten flags laid side by side. -/
theorem getLsbD_ten (a0 a1 a2 a3 a4 a5 a6 a7 a8 a9 : Bool) (k : Nat) (hk : k < 10) :
    (BitVec.ofBool a9 ++ BitVec.ofBool a8 ++ BitVec.ofBool a7 ++ BitVec.ofBool a6 ++ BitVec.ofBool a5 ++
      BitVec.ofBool a4 ++ BitVec.ofBool a3 ++ BitVec.ofBool a2 ++ BitVec.ofBool a1 ++ BitVec.ofBool a0).getLsbD k =
      [a0, a1, a2, a3, a4, a5, a6, a7, a8, a9].getD k false := by
  have : k ∈ List.range 10 := by simpa using hk
  simp only [List.range, List.range.loop, List.mem_cons, List.not_mem_nil, or_false] at this
  rcases this with rfl | rfl | rfl | rfl | rfl | rfl | rfl | rfl | rfl | rfl <;> simp only [BitVec.getLsbD_append] <;>
    simp

/-- Bit k of the pending set says whether the detail of notice kind k is present. -/
theorem PendingNotices.kinds_getLsbD (n : PendingNotices) (k : Nat) (hk : k < 10) :
    n.kinds.getLsbD k =
      [n.headLost.isSome, n.headRestored.isSome, n.tailLost.isSome, n.tailRestored.isSome, n.changeoverDone.isSome,
        n.collision.isSome, n.requestDropped.isSome, n.passDropped.isSome, n.relayExpired.isSome,
        n.relayDelivered.isSome].getD k false :=
  getLsbD_ten _ _ _ _ _ _ _ _ _ _ k hk

end Sys2Proof.Machine
end

