-- ==== Sys2Proof/Laws/Inbound.lean ====
section
/-! SUPPORT. What the inbound receiver and the arbiter can change (R137 to R149). -/

namespace Sys2Proof.Machine

/-- What reception leaves alone: everything but the slots, the completion order, the receiver, the two inbound counters and
PASS_DROPPED. -/
def ReceptionFrame (s t : State) : Prop :=
  ∃ slots order rx checkErrors passDropped detail, t =
    { s with
      inbound := { s.inbound with
        slots := slots, order := order, rx := rx, checkErrors := checkErrors, passDropped := passDropped }
      notices := { s.notices with passDropped := detail } }

theorem ReceptionFrame.refl (s : State) : ReceptionFrame s s :=
  ⟨_, _, _, _, _, _, rfl⟩

theorem ReceptionFrame.trans {s t u : State} (h : ReceptionFrame s t) (g : ReceptionFrame t u) : ReceptionFrame s u := by
  obtain ⟨_, _, _, _, _, _, rfl⟩ := h
  obtain ⟨_, _, _, _, _, _, rfl⟩ := g
  exact ⟨_, _, _, _, _, _, rfl⟩

theorem passCompletion_frame (k : Fin 2) (bytes : List Byte) (s : State) :
    ReceptionFrame s (passCompletion k bytes s) := by
  unfold passCompletion
  simp only
  split <;> exact ⟨_, _, _, _, _, _, rfl⟩

theorem beginPass_frame (only : Bool) (c : Chunk) (s : State) : ReceptionFrame s (beginPass only c s) := by
  unfold beginPass
  split
  · exact ⟨_, _, _, _, _, _, rfl⟩
  · exact passCompletion_frame _ _ _
  · exact ⟨_, _, _, _, _, _, rfl⟩
  · exact ⟨_, _, _, _, _, _, rfl⟩
  · exact ⟨_, _, _, _, _, _, rfl⟩

theorem inboundIdle_frame (c : Chunk) (s : State) : ReceptionFrame s (inboundIdle c s) := by
  unfold inboundIdle
  split
  · exact .refl s
  · exact beginPass_frame _ _ _
  · exact beginPass_frame _ _ _
  · exact ⟨_, _, _, _, _, _, rfl⟩
  · exact ⟨_, _, _, _, _, _, rfl⟩

/-- A received chunk changes what ReceptionFrame names alone. -/
theorem inboundReceive_frame (c : Chunk) (s : State) : ReceptionFrame s (inboundReceive c s) := by
  unfold inboundReceive
  split
  · exact inboundIdle_frame _ _
  · split
    · exact .refl s
    · exact ⟨_, _, _, _, _, _, rfl⟩
    · exact ⟨_, _, _, _, _, _, rfl⟩
    all_goals exact ReceptionFrame.trans ⟨_, _, _, _, _, _, rfl⟩ (inboundIdle_frame _ _)
  · simp only
    split
    · split <;> exact ⟨_, _, _, _, _, _, rfl⟩
    · split
      · exact ReceptionFrame.trans ⟨_, _, _, _, _, _, rfl⟩ (passCompletion_frame _ _ _)
      · exact ⟨_, _, _, _, _, _, rfl⟩
    · exact ⟨_, _, _, _, _, _, rfl⟩
    all_goals exact ReceptionFrame.trans ⟨_, _, _, _, _, _, rfl⟩ (inboundIdle_frame _ _)

/-- Everything the arbiter can do with an inbound frame (R147, R148). -/
theorem arbitrate_cases (s : State) :
    arbitrate s = (Chunk.idle, s) ∨
    (∃ e m, s.inbound.emission = some e ∧ s.inbound.emitted e = some m ∧ e.placed < m.chunks ∧ arbitrate s =
      (m.chunk e.placed,
        { s with inbound := { s.inbound with emission := some { e with placed := e.placed + 1 } } })) ∨
    (∃ k m, s.inbound.emission = none ∧ s.inbound.passCandidate = some (k, m) ∧ arbitrate s = startPass k m s) ∨
    (∃ e rest, s.inbound.emission = none ∧ s.inbound.queue = e :: rest ∧ arbitrate s = startOwn e s) := by
  unfold arbitrate
  split
  · rename_i e he
    split
    · rename_i m hm
      split
      · rename_i hp
        exact .inr (.inl ⟨e, m, he, hm, hp, rfl⟩)
      · exact .inl rfl
    · exact .inl rfl
  · rename_i he
    split
    · exact .inl rfl
    · rename_i k m hc hq
      exact .inr (.inr (.inl ⟨k, m, he, hc, rfl⟩))
    · rename_i e rest hc hq
      exact .inr (.inr (.inr ⟨e, rest, he, hq, rfl⟩))
    · rename_i k m e rest hc hq
      split
      · exact .inr (.inr (.inl ⟨k, m, he, hc, rfl⟩))
      · exact .inr (.inr (.inr ⟨e, rest, he, hq, rfl⟩))

/-- The arbiter changes the slots, the completion order, the emission, the last winner and the inward box alone. -/
theorem arbitrate_frame (s : State) :
    ∃ slots order emission lastWinner inward, (arbitrate s).2 =
      { s with
        inbound := { s.inbound with
          slots := slots, order := order, emission := emission, lastWinner := lastWinner }
        relay := { s.relay with inward := inward } } := by
  obtain h | ⟨e, m, _, _, _, h⟩ | ⟨k, m, _, _, h⟩ | ⟨e, rest, _, _, h⟩ := arbitrate_cases s
  · exact ⟨_, _, _, _, _, by rw [h]⟩
  · exact ⟨_, _, _, _, _, by rw [h]⟩
  · exact ⟨_, _, _, _, _, by rw [h]; rfl⟩
  · rw [h]
    unfold startOwn
    simp only
    split <;> exact ⟨_, _, _, _, _, rfl⟩

/-- A tail-side miss changes the slots and the receiver alone. -/
theorem InboundUnit.tailMiss_frame (u : InboundUnit) : ∃ slots rx, u.tailMiss = { u with slots := slots, rx := rx } := by
  unfold InboundUnit.tailMiss
  split <;> exact ⟨_, _, rfl⟩

/-! ### What reception and arbitration read -/

/-- Two states that reception cannot tell apart: the same inbound unit, PASS_DROPPED and roll-call append. -/
structure SameReception (s u : State) : Prop where
  inbound : u.inbound = s.inbound
  passDropped : u.notices.passDropped = s.notices.passDropped
  append : ∀ m, u.passThrough m = s.passThrough m

/-- Reception makes the same of both states. -/
def SameReceived (s u : State) : Prop :=
  u.inbound = s.inbound ∧ u.notices.passDropped = s.notices.passDropped

theorem SameReception.update {s u : State} (h : SameReception s u) (x : InboundUnit) :
    SameReception { s with inbound := x } { u with inbound := x } :=
  ⟨rfl, h.passDropped, h.append⟩

theorem passCompletion_congr (k : Fin 2) (bytes : List Byte) {s u : State} (h : SameReception s u) :
    SameReceived (passCompletion k bytes s) (passCompletion k bytes u) := by
  unfold passCompletion
  simp only [h.inbound, h.append]
  split <;> exact ⟨rfl, h.passDropped⟩

theorem beginPass_congr (only : Bool) (c : Chunk) {s u : State} (h : SameReception s u) :
    SameReceived (beginPass only c s) (beginPass only c u) := by
  unfold beginPass
  rw [h.inbound]
  split
  · exact ⟨by simp only, h.passDropped⟩
  · exact passCompletion_congr _ _ h
  · exact ⟨by simp only [passDrop, h.inbound], rfl⟩
  · exact ⟨by simp only, h.passDropped⟩
  · exact ⟨by simp only [passDrop, h.inbound], rfl⟩

theorem inboundIdle_congr (c : Chunk) {s u : State} (h : SameReception s u) :
    SameReceived (inboundIdle c s) (inboundIdle c u) := by
  unfold inboundIdle
  split
  · exact ⟨h.inbound, h.passDropped⟩
  · exact beginPass_congr _ _ h
  · exact beginPass_congr _ _ h
  · exact ⟨by simp only [h.inbound], h.passDropped⟩
  · exact ⟨by simp only [h.inbound], h.passDropped⟩

/-- A received chunk reads of the state what SameReception names alone. -/
theorem inboundReceive_congr (c : Chunk) {s u : State} (h : SameReception s u) :
    SameReceived (inboundReceive c s) (inboundReceive c u) := by
  unfold inboundReceive
  rw [h.inbound]
  split
  · exact inboundIdle_congr _ h
  · split
    · exact ⟨h.inbound, h.passDropped⟩
    · exact ⟨rfl, h.passDropped⟩
    · exact ⟨rfl, h.passDropped⟩
    all_goals exact inboundIdle_congr _ (h.update _)
  · simp only
    split
    · split <;> exact ⟨rfl, h.passDropped⟩
    · split
      · exact passCompletion_congr _ _ (h.update _)
      · exact ⟨rfl, h.passDropped⟩
    · exact ⟨rfl, h.passDropped⟩
    all_goals exact inboundIdle_congr _ (h.update _)

/-- The arbiter reads the inbound unit and the relay unit alone. -/
theorem arbitrate_congr {s u : State} (hi : u.inbound = s.inbound) (hr : u.relay = s.relay) :
    (arbitrate u).1 = (arbitrate s).1 ∧ (arbitrate u).2.inbound = (arbitrate s).2.inbound ∧
      (arbitrate u).2.relay = (arbitrate s).2.relay := by
  unfold arbitrate
  rw [hi]
  split
  · split
    · split
      · exact ⟨rfl, by simp only, hr⟩
      · exact ⟨rfl, hi, hr⟩
    · exact ⟨rfl, hi, hr⟩
  · split
    · exact ⟨rfl, hi, hr⟩
    · exact ⟨rfl, by simp only [startPass, hi], hr⟩
    · exact ⟨rfl, by simp only [startOwn, hi], by simp only [startOwn, hr]⟩
    · split
      · exact ⟨rfl, by simp only [startPass, hi], hr⟩
      · exact ⟨rfl, by simp only [startOwn, hi], by simp only [startOwn, hr]⟩

end Sys2Proof.Machine
end

