-- ==== Sys2Proof/Laws/Ports.lean ====
section
/-! SUPPORT. What a header or an absent header does to a port, once for each case (R6 to R8). -/

namespace Sys2Proof.Machine

/-- A good, in-sequence header of a confirming or locked port is taken. -/
theorem LockPort.header_inSequence (p : LockPort) (f : Frame) (he : p.expected = some f.number) :
    (p.lock = .locked → p.header (some f) =
      ({ p with missCount := 0, expected := some f.number.succ, watchdog := true }, .accepted f)) ∧
    (p.lock = .confirm → p.header (some f) =
      ({ p with lock := .locked, missCount := 0, expected := some f.number.succ, watchdog := true }, .entered f)) := by
  constructor <;> intro h <;> simp [LockPort.header, h, he]

/-- Any other header of a locked port is a miss. -/
theorem LockPort.header_miss (p : LockPort) (received : Option Frame) (n : FrameNo) (hl : p.lock = .locked)
    (he : p.expected = some n) (h : ∀ f, received = some f → f.number ≠ n) : p.header received = p.miss := by
  cases received with
  | none => simp [LockPort.header, hl]
  | some f =>
    have hne : n ≠ f.number := fun e => h f rfl e.symm
    simp [LockPort.header, hl, he, hne]

/-- Any other header of a confirming port fails the confirmation. -/
theorem LockPort.header_unconfirmed (p : LockPort) (received : Option Frame) (n : FrameNo) (hl : p.lock = .confirm)
    (he : p.expected = some n) (h : ∀ f, received = some f → f.number ≠ n) :
    p.header received = (p.backToSearch, .quiet) := by
  cases received with
  | none => simp [LockPort.header, hl]
  | some f =>
    have hne : n ≠ f.number := fun e => h f rfl e.symm
    simp [LockPort.header, hl, he, hne]

/-- A miss below the fourth. -/
theorem LockPort.miss_stays (p : LockPort) (n : FrameNo) (he : p.expected = some n) (hc : p.missCount < 3) :
    p.miss = ({ p with misses := bump p.misses, missCount := p.missCount + 1, expected := some n.succ }, .missed n) := by
  have h : p.missCount + 1 < 4 := by omega
  simp [LockPort.miss, he, h]

/-- The fourth miss. -/
theorem LockPort.miss_loses (p : LockPort) (n : FrameNo) (he : p.expected = some n) (hc : p.missCount = 3) :
    p.miss = ({ p with lock := .search, misses := bump p.misses, losses := bump p.losses, missCount := 4,
                       expected := none, watchdog := false }, .lost n) := by
  simp [LockPort.miss, he, hc]

/-- A running watchdog that runs out. -/
theorem LockPort.absent_running (p : LockPort) (hw : p.watchdog = true) :
    (p.lock = .confirm → p.absent = (p.backToSearch, .quiet)) ∧ (p.lock = .locked → p.absent = p.miss) := by
  constructor <;> intro h <;> simp [LockPort.absent, hw, h]

/-- Everything a port can do: it stays as it was, or its outcome fits the state it moves to. -/
theorem LockPort.header_cases (p : LockPort) (received : Option Frame) :
    p.header received = (p, .quiet) ∨
    (∃ f, received = some f ∧ p.lock = .search ∧
      p.header received = ({ p with lock := .confirm, expected := some f.number.succ, watchdog := true }, .quiet)) ∨
    (p.lock = .confirm ∧ p.header received = (p.backToSearch, .quiet)) ∨
    (∃ f, received = some f ∧ p.lock = .confirm ∧ p.expected = some f.number ∧ p.header received =
      ({ p with lock := .locked, missCount := 0, expected := some f.number.succ, watchdog := true }, .entered f)) ∨
    (∃ f, received = some f ∧ p.lock = .locked ∧ p.expected = some f.number ∧ p.header received =
      ({ p with missCount := 0, expected := some f.number.succ, watchdog := true }, .accepted f)) ∨
    (p.lock = .locked ∧ p.header received = p.miss) := by
  cases hl : p.lock <;> cases received <;> simp [LockPort.header, hl]
  all_goals split <;> simp_all

/-- Everything an expired watchdog can do. -/
theorem LockPort.absent_cases (p : LockPort) :
    p.absent = (p, .quiet) ∨ (p.lock = .confirm ∧ p.absent = (p.backToSearch, .quiet)) ∨
      (p.lock = .locked ∧ p.absent = p.miss) := by
  cases hw : p.watchdog
  · exact .inl (by simp [LockPort.absent, hw])
  · cases hl : p.lock <;> simp [LockPort.absent, hl, hw]

end Sys2Proof.Machine
end

