-- ==== Sys2Proof/Laws/Receiver.lean ====
section
/-! SUPPORT. What the service receiver can change (R79 to R88). -/

namespace Sys2Proof.Machine

/-- Admission changes the request queue, the requests-dropped counter and REQUEST_DROPPED alone, and never makes the queue
longer than 4. -/
theorem admitRequest_frame (r : Request) (s : State) :
    ∃ requests dropped detail, admitRequest r s =
      { s with
        receiver := { s.receiver with requests := requests, requestsDropped := dropped }
        notices := { s.notices with requestDropped := detail } } ∧
      (s.receiver.requests.length ≤ 4 → requests.length ≤ 4) := by
  unfold admitRequest
  split
  · exact ⟨s.receiver.requests, s.receiver.requestsDropped, s.notices.requestDropped, rfl, id⟩
  · split
    · rename_i h
      exact ⟨s.receiver.requests ++ [r], s.receiver.requestsDropped, s.notices.requestDropped, rfl,
        fun _ => by simp; omega⟩
    · exact ⟨s.receiver.requests, _, _, rfl, id⟩

/-- A complete message changes the service receiver and REQUEST_DROPPED alone. -/
theorem completeMessage_frame (bytes : List Byte) (s : State) :
    ∃ receiver detail, completeMessage bytes s =
      { s with receiver := receiver, notices := { s.notices with requestDropped := detail } } ∧
      receiver.assembler = s.receiver.assembler ∧
      (s.receiver.requests.length ≤ 4 → receiver.requests.length ≤ 4) := by
  unfold completeMessage
  simp only
  split
  · split
    · obtain ⟨q, c, d, h, hb⟩ := admitRequest_frame
        { addressing := _, kind := (readMessage bytes).kind, sequence := (readMessage bytes).sequence,
          payload := (readMessage bytes).payload } s
      exact ⟨_, d, h, rfl, hb⟩
    · exact ⟨s.receiver, s.notices.requestDropped, rfl, rfl, id⟩
  · exact ⟨_, s.notices.requestDropped, rfl, rfl, id⟩

/-- A chunk of an outbound frame event changes the service receiver and REQUEST_DROPPED alone. -/
theorem assembleChunk_frame (c : Chunk) (s : State) :
    ∃ receiver detail, assembleChunk c s =
      { s with receiver := receiver, notices := { s.notices with requestDropped := detail } } ∧
      (s.receiver.requests.length ≤ 4 → receiver.requests.length ≤ 4) := by
  unfold assembleChunk
  simp only
  split
  · rename_i bytes _
    obtain ⟨r, d, h, _, hb⟩ := completeMessage_frame bytes
      { s with receiver := { s.receiver with
          assembler := (s.receiver.assembler.take c).next
          sequenceErrors := if (s.receiver.assembler.take c).sequenceError = true
            then bump s.receiver.sequenceErrors else s.receiver.sequenceErrors
          lengthErrors := if (s.receiver.assembler.take c).lengthError = true
            then bump s.receiver.lengthErrors else s.receiver.lengthErrors } }
    exact ⟨r, d, h, hb⟩
  · exact ⟨_, s.notices.requestDropped, rfl, id⟩

/-- The service receiver reads itself, the node address and REQUEST_DROPPED alone. -/
theorem assembleChunk_congr (c : Chunk) {s u : State} (hr : u.receiver = s.receiver)
    (ha : u.executor.address = s.executor.address) (hd : u.notices.requestDropped = s.notices.requestDropped) :
    (assembleChunk c u).receiver = (assembleChunk c s).receiver ∧
      (assembleChunk c u).notices.requestDropped = (assembleChunk c s).notices.requestDropped := by
  unfold assembleChunk completeMessage admitRequest
  simp only [hr, ha]
  split
  · split
    · split
      · split
        · exact ⟨rfl, hd⟩
        · split
          · exact ⟨rfl, hd⟩
          · exact ⟨rfl, rfl⟩
      · exact ⟨rfl, hd⟩
    · exact ⟨rfl, hd⟩
  · exact ⟨rfl, hd⟩

end Sys2Proof.Machine
end

