-- ==== Sys2Proof/Laws/Slots.lean ====
section
/-! SUPPORT. What slot processing can change, entry by entry and for a whole frame (R25 to R35). -/

namespace Sys2Proof.Machine

/-- An entry changes channels and the COLLISION detail alone, and no setting, sample or register of a channel. -/
theorem slotEffect_frame (e : PlanEntry) (slot : Slot) (s : State) :
    slotEffect e slot s =
      { s with
        chan := { s.chan with
          inputs := (slotEffect e slot s).chan.inputs, outputs := (slotEffect e slot s).chan.outputs }
        notices := { s.notices with collision := (slotEffect e slot s).notices.collision } } := by
  unfold slotEffect
  cases e.action <;> try rfl
  simp only
  split <;> rfl

/-- What an entry does to an input channel. -/
theorem slotEffect_input (e : PlanEntry) (slot : Slot) (s : State) (k : Fin 8) :
    (slotEffect e slot s).chan.inputs[k] =
      if e.action = .fill ∧ e.channel = k ∧ s.chan.inputs[k].enabled = true ∧ slot.isSome = true then
        { s.chan.inputs[k] with collisions := bump s.chan.inputs[k].collisions }
      else s.chan.inputs[k] := by
  unfold slotEffect
  cases ha : e.action <;> simp only [reduceCtorEq, false_and, if_false, true_and]
  by_cases hy : fillYields s.chan e.channel slot = true
  · simp only [hy, if_true]
    simp only [fillYields, Bool.and_eq_true, Fin.getElem_fin] at hy
    by_cases hk : e.channel = k
    · subst hk
      simp [hy.1, hy.2]
    · have hv : e.channel.val ≠ k.val := fun h => hk (Fin.ext h)
      simp [hk, Vector.getElem_set_ne, hv]
  · simp only [hy]
    simp only [fillYields, Bool.and_eq_true, Fin.getElem_fin] at hy
    by_cases hk : e.channel = k
    · subst hk
      simp only [Fin.getElem_fin, true_and, if_neg hy]
      rfl
    · simp [hk]

/-- What an entry does to an output channel. -/
theorem slotEffect_output (e : PlanEntry) (slot : Slot) (s : State) (k : Fin 8) :
    (slotEffect e slot s).chan.outputs[k] =
      if e.namesOutput k = true then s.chan.outputs[k].driven slot else s.chan.outputs[k] := by
  unfold slotEffect PlanEntry.namesOutput
  cases ha : e.action <;> simp
  · by_cases hk : e.channel = k
    · subst hk; simp
    · have hv : e.channel.val ≠ k.val := fun h => hk (Fin.ext h)
      simp [hk, Vector.getElem_set_ne, hv]
  · by_cases hk : e.channel = k
    · subst hk; simp
    · have hv : e.channel.val ≠ k.val := fun h => hk (Fin.ext h)
      simp [hk, Vector.getElem_set_ne, hv]
  · split <;> rfl

/-- What an entry does to the COLLISION detail. -/
theorem slotEffect_collision (e : PlanEntry) (slot : Slot) (s : State) :
    (slotEffect e slot s).notices.collision =
      if e.action = .fill ∧ s.chan.inputs[e.channel].enabled = true ∧ slot.isSome = true then
        some (s.notices.collision.getD 0 ||| (1#8 <<< e.channel.val))
      else s.notices.collision := by
  unfold slotEffect
  cases ha : e.action <;> simp only [reduceCtorEq, false_and, if_false, true_and]
  simp only [fillYields, Bool.and_eq_true]
  split <;> rfl

/-- No entry changes whether an input is enabled. -/
@[simp] theorem slotEffect_enabled (e : PlanEntry) (slot : Slot) (s : State) (k : Fin 8) :
    (slotEffect e slot s).chan.inputs[k].enabled = s.chan.inputs[k].enabled := by
  rw [slotEffect_input]; split <;> rfl

/-- No entry changes a channel's converter frame. -/
@[simp] theorem slotEffect_converterFrame (e : PlanEntry) (slot : Slot) (s : State) :
    (slotEffect e slot s).chan.converterFrame = s.chan.converterFrame := by
  rw [slotEffect_frame]

/-- What slot processing leaves of the channels: an input but its collision counter, the settings of an output, and all of a
disabled output (R30, R31). -/
def ChannelsWorked (a b : ChannelUnit) : Prop :=
  (∀ k : Fin 8, b.inputs[k] = { a.inputs[k] with collisions := b.inputs[k].collisions }) ∧
    (∀ k : Fin 8, b.outputs[k].enabled = a.outputs[k].enabled ∧ b.outputs[k].policy = a.outputs[k].policy ∧
      (a.outputs[k].enabled = false → b.outputs[k] = a.outputs[k])) ∧
    b.converterFrame = a.converterFrame

theorem ChannelsWorked.refl (a : ChannelUnit) : ChannelsWorked a a :=
  ⟨fun _ => rfl, fun _ => ⟨rfl, rfl, fun _ => rfl⟩, rfl⟩

theorem ChannelsWorked.trans {a b c : ChannelUnit} (h : ChannelsWorked a b) (g : ChannelsWorked b c) :
    ChannelsWorked a c := by
  refine ⟨fun k => ?_, fun k => ⟨?_, ?_, fun hd => ?_⟩, g.2.2.trans h.2.2⟩
  · rw [g.1 k, h.1 k]
  · rw [(g.2.1 k).1, (h.2.1 k).1]
  · rw [(g.2.1 k).2.1, (h.2.1 k).2.1]
  · rw [(g.2.1 k).2.2 (by rw [(h.2.1 k).1]; exact hd), (h.2.1 k).2.2 hd]

/-- A driven output keeps its settings, and a disabled one is left alone. -/
theorem OutputChannel.driven_settings (c : OutputChannel) (slot : Slot) :
    (c.driven slot).enabled = c.enabled ∧ (c.driven slot).policy = c.policy ∧
      (c.enabled = false → c.driven slot = c) := by
  unfold OutputChannel.driven
  cases h : c.enabled <;> cases slot <;> simp [h]

/-- An entry works the channels. -/
theorem slotEffect_channels (e : PlanEntry) (slot : Slot) (s : State) :
    ChannelsWorked s.chan (slotEffect e slot s).chan := by
  refine ⟨fun k => ?_, fun k => ?_, slotEffect_converterFrame e slot s⟩
  · rw [slotEffect_input]; split <;> rfl
  · rw [slotEffect_output]
    split
    · exact OutputChannel.driven_settings _ _
    · exact ⟨rfl, rfl, fun _ => rfl⟩

/-- The frame of a whole slot processing, in any order of the entries. -/
theorem slotFold_frame (plan : Plan) (slots : Slots) (order : List (Fin 32)) (s : State) :
    ∃ chan collision, ChannelsWorked s.chan chan ∧ order.foldl (fun t k => slotEffect plan[k] slots[k] t) s =
      { s with chan := chan, notices := { s.notices with collision := collision } } := by
  induction order generalizing s with
  | nil => exact ⟨s.chan, s.notices.collision, .refl _, rfl⟩
  | cons j js ih =>
    obtain ⟨ch, c, hw, h⟩ := ih (slotEffect plan[j] slots[j] s)
    refine ⟨ch, c, (slotEffect_channels plan[j] slots[j] s).trans hw, ?_⟩
    rw [List.foldl_cons, h, slotEffect_frame]

/-- Slot processing changes channels and the COLLISION detail alone. -/
theorem slotEffects_frame (plan : Plan) (slots : Slots) (s : State) :
    ∃ chan collision, ChannelsWorked s.chan chan ∧ slotEffects plan slots s =
      { s with chan := chan, notices := { s.notices with collision := collision } } :=
  slotFold_frame plan slots _ s

/-- What a frame's entries leave in the slots does not depend on what slot processing changes. -/
theorem slotsAfter_worked {a b : ChannelUnit} (h : ChannelsWorked a b) (plan : Plan) (slots : Slots) :
    slotsAfter plan slots b = slotsAfter plan slots a := by
  unfold slotsAfter
  apply Vector.ext
  intro i hi
  simp only [Vector.getElem_ofFn]
  have e1 : ∀ k : Fin 8, b.inputs[k].enabled = a.inputs[k].enabled := fun k => by rw [h.1 k]
  have e2 : ∀ k : Fin 8, b.inputs[k].sample = a.inputs[k].sample := fun k => by rw [h.1 k]
  unfold slotAfter
  simp only [e1, e2, (h.2.1 _).1]

/-- A channel after an event that some entries of a list make: a property of one channel that each entry keeps is kept by
all of them. -/
theorem slotFold_induct (plan : Plan) (slots : Slots) {P : State → Prop}
    (h : ∀ (j : Fin 32) (s : State), P s → P (slotEffect plan[j] slots[j] s)) (order : List (Fin 32)) (s : State)
    (hs : P s) : P (order.foldl (fun t k => slotEffect plan[k] slots[k] t) s) := by
  induction order generalizing s with
  | nil => exact hs
  | cons j js ih => exact ih _ (h j s hs)

/-! ### What slot processing reads -/

/-- An entry reads of the state the channels and the COLLISION detail alone. -/
theorem slotEffect_congr (e : PlanEntry) (x : Slot) {s u : State} (hc : u.chan = s.chan)
    (hn : u.notices.collision = s.notices.collision) :
    (slotEffect e x u).chan = (slotEffect e x s).chan ∧
      (slotEffect e x u).notices.collision = (slotEffect e x s).notices.collision := by
  unfold slotEffect
  cases e.action <;> simp only [hc, hn, and_self]
  split
  · simp only [PendingNotices.addCollision, hn, and_self]
  · exact ⟨hc, hn⟩

/-- A slot engine reads of the state the channels and the COLLISION detail alone. -/
theorem slotEffects_congr (plan : Plan) (slots : Slots) {s u : State} (hc : u.chan = s.chan)
    (hn : u.notices.collision = s.notices.collision) :
    (slotEffects plan slots u).chan = (slotEffects plan slots s).chan ∧
      (slotEffects plan slots u).notices.collision = (slotEffects plan slots s).notices.collision := by
  unfold slotEffects
  generalize List.finRange 32 = order
  induction order generalizing s u with
  | nil => exact ⟨hc, hn⟩
  | cons k order ih =>
    obtain ⟨gc, gn⟩ := slotEffect_congr plan[k] slots[k] hc hn
    exact ih gc gn

/-- A frame of vacant slots makes no FILL yield. -/
theorem slotEffects_vacant (plan : Plan) (s : State) :
    (slotEffects plan (Vector.replicate 32 none) s).notices.collision = s.notices.collision := by
  unfold slotEffects
  generalize List.finRange 32 = order
  induction order generalizing s with
  | nil => rfl
  | cons k order ih =>
    rw [List.foldl_cons, ih, slotEffect_collision]
    simp

end Sys2Proof.Machine
end

