-- ==== Sys2Proof/Laws/Frames.lean ====
section
/-! SUPPORT. What the boundary actions and the two frame events do and leave alone (R19, R20), and what a port's outcome
comes to. -/

namespace Sys2Proof.Machine

/-! ### The superframe boundary -/

/-- Everything the changeover check can do (R50, R51). -/
theorem changeoverCheck_cases (n : Superframe) (s : State) :
    changeoverCheck n s = s ∨
    ∃ t, s.plan.state = .armed ∧ s.plan.target = some t ∧ atOrAfter n t = true ∧ changeoverCheck n s =
      State.setFlag
        { s with
          plan := s.plan.fired n t
          notices := { s.notices with changeoverDone := some { superframe := n, late := n != t } } } .changeover := by
  unfold changeoverCheck
  split
  · rename_i t hs ht
    split
    · rename_i h
      exact .inr ⟨t, hs, ht, h, rfl⟩
    · exact .inl rfl
  · exact .inl rfl

/-- Everything the refresh completion can do (R58). -/
theorem refreshCompletion_cases (s : State) :
    refreshCompletion s = s ∨
    (s.plan.state = .refresh ∧ refreshCompletion s =
      { s with plan := { s.plan.setBank s.plan.draft (s.plan.bank s.plan.live) with state := .idle } }) := by
  unfold refreshCompletion
  split
  · rename_i h
    exact .inr ⟨h, rfl⟩
  · exact .inl rfl

/-- Everything the relay unit can do at a boundary (R169). -/
theorem relayBoundary_cases (n : Superframe) (s : State) :
    relayBoundary n s = s ∨
    (∃ box c, s.relay.outward = some box ∧ box.countdown = some c ∧ 1 < c.toNat ∧ relayBoundary n s =
      { s with relay := { s.relay with outward := some { box with countdown := some (c - 1) } } }) ∨
    (∃ box c, s.relay.outward = some box ∧ box.countdown = some c ∧ c.toNat ≤ 1 ∧ relayBoundary n s =
      State.setFlag
        { s with
          relay := { s.relay with outward := none }
          notices := { s.notices with
            relayExpired := some { superframe := n, length := byteOf box.payload.length } } } .outwardExpired) := by
  unfold relayBoundary
  split
  · exact .inl rfl
  · rename_i box hb
    split
    · exact .inl rfl
    · rename_i c hc
      split
      · rename_i h
        exact .inr (.inl ⟨box, c, hb, hc, h, rfl⟩)
      · rename_i h
        exact .inr (.inr ⟨box, c, hb, hc, by omega, rfl⟩)

/-- What the boundary actions leave alone: everything but the plan store, two notices, the outward box and the flags. -/
def BoundaryFrame (s t : State) : Prop :=
  ∃ plan changeoverDone relayExpired outward flags, t =
    { s with
      plan := plan
      notices := { s.notices with changeoverDone := changeoverDone, relayExpired := relayExpired }
      relay := { s.relay with outward := outward }
      port := { s.port with flags := flags } }

theorem BoundaryFrame.refl (s : State) : BoundaryFrame s s :=
  ⟨_, _, _, _, _, rfl⟩

theorem BoundaryFrame.trans {s t u : State} (h : BoundaryFrame s t) (g : BoundaryFrame t u) : BoundaryFrame s u := by
  obtain ⟨_, _, _, _, _, rfl⟩ := h
  obtain ⟨_, _, _, _, _, rfl⟩ := g
  exact ⟨_, _, _, _, _, rfl⟩

theorem changeoverCheck_frame (n : Superframe) (s : State) : BoundaryFrame s (changeoverCheck n s) := by
  obtain h | ⟨t, _, _, _, h⟩ := changeoverCheck_cases n s <;> rw [h] <;> exact ⟨_, _, _, _, _, rfl⟩

theorem refreshCompletion_frame (s : State) : BoundaryFrame s (refreshCompletion s) := by
  obtain h | ⟨_, h⟩ := refreshCompletion_cases s <;> rw [h] <;> exact ⟨_, _, _, _, _, rfl⟩

theorem relayBoundary_frame (n : Superframe) (s : State) : BoundaryFrame s (relayBoundary n s) := by
  obtain h | ⟨_, _, _, _, _, h⟩ | ⟨_, _, _, _, _, h⟩ := relayBoundary_cases n s <;> rw [h] <;>
    exact ⟨_, _, _, _, _, rfl⟩

theorem superframeBoundary_frame (n : Superframe) (s : State) : BoundaryFrame s (superframeBoundary n s) :=
  ((changeoverCheck_frame n s).trans (refreshCompletion_frame _)).trans (relayBoundary_frame n _)

/-! ### An inbound frame event -/

/-- Everything the selection of a bank can do (R38, R39, R54). -/
theorem PlanStore.selectInbound_cases (p : PlanStore) (m : Superframe) :
    (p.selectInbound m).2 = p ∨
    (p.state = .split ∧ p.selectInbound m = (p.bank p.live, { p with state := .refresh, oldBank := none })) := by
  unfold PlanStore.selectInbound
  split
  · rename_i a hs _
    split
    · exact .inr ⟨hs, rfl⟩
    · exact .inl rfl
  · exact .inl rfl

/-- The state of an inbound frame event when the arbiter decides (R20, stages 1 and 2). -/
def inboundStages (f : Frame) (received : Option Chunk) (s : State) : State :=
  let s2 := slotEffects (s.plan.selectInbound f.number.superframe).1.inbound f.slots
    { s with plan := (s.plan.selectInbound f.number.superframe).2 }
  match received with
  | some c => inboundReceive c s2
  | none => s2

/-- An inbound frame event is its four stages. -/
theorem inboundFrameEvent_stages (f : Frame) (received : Option Chunk) (s : State) :
    inboundFrameEvent f received s =
      sendInbound
        { f with
          chunk := (arbitrate (inboundStages f received s)).1
          slots := slotsAfter (s.plan.selectInbound f.number.superframe).1.inbound f.slots s.chan }
        (arbitrate (inboundStages f received s)).2 := rfl

/-- What the first two stages leave alone. -/
theorem inboundStages_frame (f : Frame) (received : Option Chunk) (s : State) :
    ∃ chan collision t, ChannelsWorked s.chan chan ∧ ReceptionFrame
        { s with
          plan := (s.plan.selectInbound f.number.superframe).2
          chan := chan
          notices := { s.notices with collision := collision } } t ∧ inboundStages f received s = t := by
  unfold inboundStages
  obtain ⟨ch, c, hw, h⟩ := slotEffects_frame (s.plan.selectInbound f.number.superframe).1.inbound f.slots
    { s with plan := (s.plan.selectInbound f.number.superframe).2 }
  simp only
  rw [h]
  cases received with
  | none => exact ⟨ch, c, _, hw, .refl _, rfl⟩
  | some chunk => exact ⟨ch, c, _, hw, inboundReceive_frame chunk _, rfl⟩

/-- What an inbound frame event changes: the plan store as the selection says, channels, two notices, the inbound unit but
its queue and notice number, the inward box, and one frame more for the head-side port. -/
theorem inboundFrameEvent_frame (f : Frame) (received : Option Chunk) (s : State) :
    ∃ chan collision passDropped slots order rx emission lastWinner checkErrors passCount inward chunk,
      ChannelsWorked s.chan chan ∧ inboundFrameEvent f received s =
        { s with
          plan := (s.plan.selectInbound f.number.superframe).2
          chan := chan
          notices := { s.notices with collision := collision, passDropped := passDropped }
          inbound := { s.inbound with
            slots := slots, order := order, rx := rx, emission := emission, lastWinner := lastWinner
            checkErrors := checkErrors, passDropped := passCount }
          relay := { s.relay with inward := inward }
          wires := { s.wires with headTx := s.wires.headTx ++
            [{ f with
              chunk := chunk
              slots := slotsAfter (s.plan.selectInbound f.number.superframe).1.inbound f.slots s.chan }] } } := by
  obtain ⟨ch, c, t, hw, ⟨_, _, _, _, _, _, ht⟩, h⟩ := inboundStages_frame f received s
  obtain ⟨sl, od, em, lw, iw, ha⟩ := arbitrate_frame (inboundStages f received s)
  rw [inboundFrameEvent_stages, ha, h, ht]
  exact ⟨ch, c, _, sl, od, _, em, lw, _, _, iw, _, hw, rfl⟩

/-- The roll-call append does not see the selection of a bank, slot processing, or a notice. -/
theorem selected_reception (m : Superframe) (chan : ChannelUnit) (collision : Option Byte) (s : State) :
    SameReception s
      { s with
        plan := (s.plan.selectInbound m).2, chan := chan, notices := { s.notices with collision := collision } } := by
  refine ⟨rfl, rfl, fun x => ?_⟩
  obtain h | ⟨h0, h⟩ := s.plan.selectInbound_cases m
  · rw [h]
    rfl
  · have e : ∀ hop, State.rollCallRecord
        { s with
          plan := (s.plan.selectInbound m).2, chan := chan
          notices := { s.notices with collision := collision } } hop = s.rollCallRecord hop := by
      intro hop
      rw [h]
      unfold State.rollCallRecord State.recordFlags
      simp only [h0]
      rfl
    unfold State.passThrough State.appendedPayload
    simp only [e]
    rfl

/-- When the arbiter decides, the inbound unit, PASS_DROPPED and the relay unit are what the received chunk alone makes of
them. -/
theorem inboundStages_reception (f : Frame) (received : Option Chunk) (s : State) :
    let v := match received with
      | some c => inboundReceive c s
      | none => s
    (inboundStages f received s).inbound = v.inbound ∧
      (inboundStages f received s).notices.passDropped = v.notices.passDropped ∧
      (inboundStages f received s).relay = v.relay := by
  unfold inboundStages
  obtain ⟨ch, co, _, hs⟩ := slotEffects_frame (s.plan.selectInbound f.number.superframe).1.inbound f.slots
    { s with plan := (s.plan.selectInbound f.number.superframe).2 }
  simp only [hs]
  cases received with
  | none => exact ⟨rfl, rfl, rfl⟩
  | some c =>
    simp only
    obtain ⟨hi, hp⟩ := inboundReceive_congr c (selected_reception f.number.superframe ch co s)
    refine ⟨hi, hp, ?_⟩
    obtain ⟨_, _, _, _, _, _, e⟩ := inboundReceive_frame c s
    rw [e]
    obtain ⟨_, _, _, _, _, _, e⟩ := inboundReceive_frame c
      { s with
        plan := (s.plan.selectInbound f.number.superframe).2, chan := ch
        notices := { s.notices with collision := co } }
    rw [e]

/-! ### An outbound frame event -/

/-- The state of an outbound frame event before its frame is sent (R19, stages 1 to 5). -/
def outboundStages (f : Frame) (s : State) : State :=
  let s1 := outboundArrival f.number s
  assembleChunk f.chunk (slotEffects (s1.plan.bank s1.plan.live).outbound f.slots s1)

/-- An outbound frame event is its stages, the sending and the origination. -/
theorem outboundFrameEvent_stages (f : Frame) (s : State) :
    outboundFrameEvent f s =
      originateInbound f.number
        (sendOutbound
          { f with
            slots := slotsAfter
              ((outboundArrival f.number s).plan.bank (outboundArrival f.number s).plan.live).outbound f.slots
              (outboundArrival f.number s).chan }
          (outboundStages f s)) := rfl

/-- What numbering, boundary actions and exchange change: the exchange marks its converter frame on CFS. -/
theorem outboundArrival_frame (n : FrameNo) (s : State) :
    ∃ t, BoundaryFrame s t ∧ (n.index ≠ 0 → t = s) ∧
      outboundArrival n s =
        { t with
          timing := { s.timing with number := n }
          chan := s.chan.exchange
          wires := { s.wires with converterSent := s.wires.converterSent ++ [.frameStart] } } := by
  unfold outboundArrival
  simp only
  split
  · rename_i h
    obtain ⟨p, a, b, c, d, e⟩ := superframeBoundary_frame n.superframe
      { s with timing := { s.timing with number := n } }
    rw [e]
    exact ⟨_, ⟨p, a, b, c, d, rfl⟩, fun g => absurd h g, rfl⟩
  · exact ⟨s, .refl s, fun _ => rfl, rfl⟩

/-- The channels at the slot processing of an outbound frame are those of the exchange of the same event. -/
@[simp] theorem outboundArrival_chan (n : FrameNo) (s : State) : (outboundArrival n s).chan = s.chan.exchange := by
  obtain ⟨t, -, -, h⟩ := outboundArrival_frame n s
  rw [h]

/-- What slot processing and assembly add to an outbound arrival. -/
theorem outboundStages_frame (f : Frame) (s : State) :
    ∃ chan collision receiver requestDropped,
      ChannelsWorked s.chan.exchange chan ∧
      (s.receiver.requests.length ≤ 4 → receiver.requests.length ≤ 4) ∧
      outboundStages f s =
        { outboundArrival f.number s with
          chan := chan
          receiver := receiver
          notices := { (outboundArrival f.number s).notices with
            collision := collision, requestDropped := requestDropped } } := by
  unfold outboundStages
  simp only
  obtain ⟨ch, co, hw, hs⟩ := slotEffects_frame
    ((outboundArrival f.number s).plan.bank (outboundArrival f.number s).plan.live).outbound f.slots
    (outboundArrival f.number s)
  rw [hs]
  obtain ⟨r, rd, hr, hl⟩ := assembleChunk_frame f.chunk
    { outboundArrival f.number s with
      chan := ch, notices := { (outboundArrival f.number s).notices with collision := co } }
  rw [outboundArrival_chan] at hw
  refine ⟨ch, co, r, rd, hw, ?_, hr⟩
  obtain ⟨t, ⟨_, _, _, _, _, rfl⟩, -, h⟩ := outboundArrival_frame f.number s
  rw [h] at hl
  exact hl

/-- Before an outbound frame is sent, channels and COLLISION detail are what its slots make of the exchanged channels, and the
service receiver is what its chunk makes of it. -/
theorem outboundStages_parts (f : Frame) (s : State) :
    let plan := ((outboundArrival f.number s).plan.bank (outboundArrival f.number s).plan.live).outbound
    let worked := slotEffects plan f.slots { s with chan := s.chan.exchange }
    (outboundStages f s).chan = worked.chan ∧ (outboundStages f s).notices.collision = worked.notices.collision ∧
      (outboundStages f s).receiver = (assembleChunk f.chunk s).receiver ∧
      (outboundStages f s).notices.requestDropped = (assembleChunk f.chunk s).notices.requestDropped := by
  intro plan worked
  obtain ⟨_, ⟨_, _, _, _, _, rfl⟩, -, harr⟩ := outboundArrival_frame f.number s
  obtain ⟨hc, hn⟩ := slotEffects_congr plan f.slots (s := { s with chan := s.chan.exchange })
    (u := outboundArrival f.number s) (by rw [harr]) (by rw [harr])
  obtain ⟨_, _, _, hs⟩ := slotEffects_frame plan f.slots (outboundArrival f.number s)
  obtain ⟨hr, hd⟩ := assembleChunk_congr f.chunk (s := s) (u := slotEffects plan f.slots (outboundArrival f.number s))
    (by rw [hs, harr]) (by rw [hs, harr]) (by rw [hs, harr])
  obtain ⟨_, _, ha, -⟩ := assembleChunk_frame f.chunk (slotEffects plan f.slots (outboundArrival f.number s))
  have hst : outboundStages f s = assembleChunk f.chunk (slotEffects plan f.slots (outboundArrival f.number s)) := rfl
  rw [hst]
  exact ⟨by rw [ha]; exact hc, by rw [ha]; exact hn, hr, hd⟩

/-- Origination either leaves the state alone or is an inbound frame event. -/
theorem originateInbound_cases (n : FrameNo) (s : State) :
    (s.tailPort.lock = .locked ∧ originateInbound n s = s) ∨
    (s.tailPort.lock ≠ .locked ∧ originateInbound n s = inboundFrameEvent (originatedFrame n) none s) := by
  unfold originateInbound
  split
  · rename_i h
    exact .inl ⟨h, rfl⟩
  · rename_i h
    exact .inr ⟨h, rfl⟩

/-! ### The end of an emission -/

/-- A report of a frame sent either changes the inbound unit, the relay unit and the flags alone, or applies the node reset
after the recorded reply has left the queue (R104, R149). -/
theorem emissionReport_cases (c : Chunk) (s : State) :
    (∃ inbound relay port, emissionReport c s = { s with inbound := inbound, relay := relay, port := port }) ∨
    (s.executor.state = .resetWait ∧ ∃ inbound, emissionReport c s = nodeResetState { s with inbound := inbound }) := by
  unfold emissionReport
  split
  · exact .inl ⟨_, _, _, rfl⟩
  · split
    · exact .inl ⟨_, _, _, rfl⟩
    · exact .inl ⟨_, _, _, rfl⟩
    · exact .inl ⟨_, _, _, rfl⟩
    all_goals
      unfold endEmission emissionEffect
      split
      · exact .inl ⟨_, _, _, rfl⟩
      · split
        · exact .inl ⟨_, _, _, rfl⟩
        · split
          · exact .inl ⟨_, _, _, rfl⟩
          · exact .inl ⟨_, _, _, rfl⟩
          · split
            · rename_i h
              exact .inr ⟨h, _, rfl⟩
            · exact .inl ⟨_, _, _, rfl⟩

end Sys2Proof.Machine
end

