-- ==== Sys2Proof/Laws/Local.lean ====
section
/-! SUPPORT. What a byte and a stretch of bytes can do at the local control port (R178). -/

namespace Sys2Proof.Machine

variable {row : Option LocalCommand} {effect : List Byte → State → State × List Byte}

/-- A byte shifted in either meets a port that takes no part, or one that waits after a device reset, or a response, or is
one more byte of a command, or is the byte at which the command is taken. -/
theorem shiftLocalByte_cases (row : Option LocalCommand) (effect : List Byte → State → State × List Byte) (b : Byte)
    (s : State) :
    (s.port.transaction = .closed ∧ shiftLocalByte row effect b s = s) ∨
    (s.port.transaction = .barred ∧ shiftLocalByte row effect b s = s.shiftOut 0x00) ∨
    (∃ code rest, s.port.transaction = .responding code rest ∧
      shiftLocalByte row effect b s = (s.shiftOut (rest.headD 0x00)).withTransaction (.responding code rest.tail)) ∨
    (∃ before, s.port.transaction = .collecting before ∧ argumentsComplete row (before ++ [b]).tail = false ∧
      shiftLocalByte row effect b s = (s.shiftOut 0x00).withTransaction (.collecting (before ++ [b]))) ∨
    (∃ before, s.port.transaction = .collecting before ∧ argumentsComplete row (before ++ [b]).tail = true ∧
      shiftLocalByte row effect b s =
        (effect (before ++ [b]).tail (s.shiftOut 0x00)).1.withTransaction
          (.responding ((before ++ [b]).headD 0x00) (effect (before ++ [b]).tail (s.shiftOut 0x00)).2)) := by
  unfold shiftLocalByte
  split
  · exact .inl ⟨‹_›, rfl⟩
  · exact .inr (.inl ⟨‹_›, rfl⟩)
  · exact .inr (.inr (.inl ⟨_, _, ‹_›, rfl⟩))
  · rename_i before h
    cases hc : argumentsComplete row (before ++ [b]).tail with
    | false => exact .inr (.inr (.inr (.inl ⟨before, h, hc, by simp only [hc]; rfl⟩)))
    | true => exact .inr (.inr (.inr (.inr ⟨before, h, hc, by simp only [hc]; rfl⟩)))

/-- What the command's own effect keeps, the transaction and LDO apart, every stretch of its transaction keeps. -/
theorem localTransfer_keeps {P : State → Prop} (ht : ∀ s x, P s → P (s.withTransaction x))
    (ho : ∀ s b, P s → P (s.shiftOut b))
    (he : ∀ a s, argumentsComplete row a = true → P s → P (effect a s).1) (bytes : List Byte)
    (edges : LselEdges) {s : State} (h : P s) : P (localTransfer row effect bytes edges s) := by
  have byte : ∀ b t, P t → P (shiftLocalByte row effect b t) := by
    intro b t ht'
    obtain ⟨_, e⟩ | ⟨_, e⟩ | ⟨_, _, _, e⟩ | ⟨_, _, _, e⟩ | ⟨_, _, hc, e⟩ := shiftLocalByte_cases row effect b t <;> rw [e]
    · exact ht'
    · exact ho _ _ ht'
    · exact ht _ _ (ho _ _ ht')
    · exact ht _ _ (ho _ _ ht')
    · exact ht _ _ (he _ _ hc (ho _ _ ht'))
  have all : ∀ (l : List Byte) t, P t → P (l.foldl (fun u b => shiftLocalByte row effect b u) t) := by
    intro l
    induction l with
    | nil => exact fun _ g => g
    | cons b l ih => exact fun t g => ih _ (byte b t g)
  have select : P (if edges.asserted then s.localSelect else s) := by
    split
    · unfold State.localSelect
      split
      · exact ht _ _ h
      all_goals exact h
    · exact h
  unfold localTransfer
  simp only
  generalize (if edges.asserted then s.localSelect else s) = s1 at select ⊢
  have shifted := all bytes s1 select
  split
  · split
    · exact ht _ _ shifted
    · exact shifted
  · exact h

/-- A POST INWARD is taken with as many payload bytes as its length says, or with a length that is refused. -/
theorem postInward_complete {length : Byte} {payload : List Byte}
    (h : argumentsComplete (some .postInward) (length :: payload) = true) (h1 : 1 ≤ length.toNat)
    (h2 : length.toNat ≤ 120) : length.toNat ≤ payload.length := by
  simpa [argumentsComplete, h1, h2] using h

end Sys2Proof.Machine
end

