-- ==== Sys2Proof/Laws/Step.lean ====
section
/-! SUPPORT. One induction over everything that a command can do: a property that each operation of the model keeps is kept
by every command and by every step. -/

namespace Sys2Proof.Machine

/-- The own check and effect of each request kind; RESET NODE has none besides its execution. -/
def RequestKind.own : RequestKind → Request → State → Verdict
  | .armChangeover => armOwn
  | .assign => assignOwn
  | .cancelChangeover => cancelOwn
  | .readChannels => readChannelsOwn
  | .readCounters => readCountersOwn
  | .readPlan => readPlanOwn
  | .readStatus => readStatusOwn
  | .relayOut => relayOutOwn
  | .release => releaseOwn
  | .resetNode => fun _ s => .run s []
  | .rollCall => rollCallOwn
  | .writeChannels => writeChannelsOwn
  | .writePlan => writePlanOwn
  | .writeSettings => writeSettingsOwn

/-- The own effect of every kind keeps to OwnFrame. -/
theorem own_frame (k : RequestKind) {r : Request} {s t : State} {data : List Byte} (hk : readKind r.kind = some k)
    (hg : generalCheck k r = none) (h : k.own r s = .run t data) : OwnFrame r s t := by
  cases k with
  | armChangeover => exact armOwn_frame h
  | assign => exact assignOwn_frame hk hg h
  | cancelChangeover => exact cancelOwn_frame h
  | readChannels => exact readChannelsOwn_frame h ▸ .refl r s
  | readCounters => exact readCountersOwn_frame h
  | readPlan => exact readPlanOwn_frame h ▸ .refl r s
  | readStatus =>
    simp only [RequestKind.own, readStatusOwn] at h
    cases h
    exact .refl r s
  | relayOut => exact relayOutOwn_frame hg h
  | release => exact releaseOwn_frame h
  | resetNode =>
    simp only [RequestKind.own] at h
    cases h
    exact .refl r s
  | rollCall => exact rollCallOwn_frame hk hg h
  | writeChannels => exact writeChannelsOwn_frame h
  | writePlan => exact writePlanOwn_frame h
  | writeSettings => exact writeSettingsOwn_frame h

/-- What holds when the executor deals with the oldest request. -/
structure Dealt (s : State) (r : Request) (rest : List Request) : Prop where
  oldest : s.receiver.requests = r :: rest
  taking : s.executor.state ≠ .resetWait
  ready : mustWait r s = false

/-- P is kept by every operation that the commands are made of. -/
structure KeptByOperations (P : State → Prop) : Prop where
  outside : ∀ s headPort tailPort timing headLostSeen notices port wires, P s → P
    { s with
      headPort := headPort, tailPort := tailPort, timing := timing, headLostSeen := headLostSeen, notices := notices
      port := port, wires := wires }
  deviceReset : ∀ s, P s → P (deviceResetState s)
  nodeReset : ∀ s, P s → P (nodeResetState s)
  changeover : ∀ n s, P s → P (changeoverCheck n s)
  refresh : ∀ s, P s → P (refreshCompletion s)
  relayBoundary : ∀ n s, P s → P (relayBoundary n s)
  exchange : ∀ s, P s → P { s with chan := s.chan.exchange }
  slots : ∀ plan slots s, P s → P (slotEffects plan slots s)
  assemble : ∀ c s, P s → P (assembleChunk c s)
  select : ∀ m s, P s → P { s with plan := (s.plan.selectInbound m).2 }
  receive : ∀ c s, P s → P (inboundReceive c s)
  arbitrate : ∀ s, P s → P (arbitrate s).2
  tailMiss : ∀ s, P s → P { s with inbound := s.inbound.tailMiss }
  word : ∀ k w s, P s → P { s with chan := s.chan.wordReceived k w }
  report : ∀ c s, P s → P (emissionReport c s)
  notice : ∀ s, P s → P (buildNotice s)
  relayIn : ∀ s, P s → P (queueRelayIn s)
  readOutward : ∀ s, P s → P (localReadOutward [] s).1
  postInward : ∀ payload s, P s → s.relay.inward = .empty → 1 ≤ payload.length → payload.length ≤ 120 →
    P { s with relay := { s.relay with inward := .posted payload } }
  withdrawInward : ∀ s, P s → P (localWithdrawInward [] s).1
  waiting : ∀ s, P s → s.executor.state ≠ .resetWait → P { s with executor := { s.executor with state := .waiting } }
  request : ∀ k s r rest, P s → Dealt s r rest → readKind r.kind = some k → k ≠ .resetNode →
    P (execute k k.own r (s.removed rest))
  resetNode : ∀ s r rest, P s → Dealt s r rest → P (executeResetNode r (s.removed rest))
  unknownKind : ∀ s r rest, P s → Dealt s r rest → P (refuseUnknown r (s.removed rest))
  stored : ∀ s r rest, P s → Dealt s r rest → (storeHit r s).isSome = true → P (answerFromStore r (s.removed rest))

variable {P : State → Prop}

theorem KeptByOperations.taking (K : KeptByOperations P) {row : Request → Bool} {deal : Request → State → State}
    {s : State} (h : P s)
    (hd : ∀ r rest, Dealt s r rest → row r = true → P (deal r (s.removed rest))) : P (takeOldest row deal s) := by
  obtain e | ⟨hs, e⟩ | ⟨r, rest, hq, hs, hr, hw, e⟩ := takeOldest_cases row deal s <;> rw [e]
  · exact h
  · exact K.waiting s h hs
  · exact hd r rest ⟨hq, hs, hw⟩ hr

theorem KeptByOperations.takingKind (K : KeptByOperations P) {k : RequestKind} (hk : k ≠ .resetNode) {s : State}
    (h : P s) : P (takeKind k k.own s) := by
  refine K.taking h fun r rest hd hr => K.request k s r rest h hd ?_ hk
  unfold rowOfKind at hr
  simp only [Bool.and_eq_true, beq_iff_eq] at hr
  exact hr.1

theorem KeptByOperations.inbound (K : KeptByOperations P) (f : Frame) (received : Option Chunk) {s : State} (h : P s) :
    P (inboundFrameEvent f received s) := by
  unfold inboundFrameEvent selectInbound
  simp only
  refine K.outside _ _ _ _ _ _ _ _ (K.arbitrate _ ?_)
  have h2 := K.slots (s.plan.selectInbound f.number.superframe).1.inbound f.slots _ (K.select f.number.superframe s h)
  cases received with
  | none => exact h2
  | some c => exact K.receive c _ h2

theorem KeptByOperations.arrival (K : KeptByOperations P) (n : FrameNo) {s : State} (h : P s) :
    P (outboundArrival n s) := by
  unfold outboundArrival
  have hi : P { s with timing := { s.timing with number := n } } := K.outside s _ _ _ _ _ _ _ h
  simp only
  refine K.outside _ _ _ _ _ _ _ _ (K.exchange _ ?_)
  split
  · exact K.relayBoundary _ _ (K.refresh _ (K.changeover _ _ hi))
  · exact hi

theorem KeptByOperations.outbound (K : KeptByOperations P) (f : Frame) {s : State} (h : P s) :
    P (outboundFrameEvent f s) := by
  rw [outboundFrameEvent_stages]
  have ha : P (outboundStages f s) := K.assemble _ _ (K.slots _ _ _ (K.arrival f.number h))
  have hb : ∀ w, P (sendOutbound w (outboundStages f s)) := by
    intro w
    generalize outboundStages f s = u at ha ⊢
    exact K.outside u u.headPort u.tailPort u.timing u.headLostSeen u.notices u.port _ ha
  unfold originateInbound
  split
  · exact hb _
  · exact K.inbound _ _ (hb _)

theorem KeptByOperations.head (K : KeptByOperations P) (outcome : PortOutcome) {s : State} (h : P s) :
    P (headOutcome outcome s) := by
  unfold headOutcome
  split
  · exact h
  · exact K.outbound _ (K.outside s s.headPort s.tailPort _ s.headLostSeen _ s.port s.wires h)
  · exact K.outbound _ h
  · exact K.outbound _ h
  · exact K.outbound _ (K.outside s s.headPort s.tailPort _ s.headLostSeen _ _ s.wires h)

theorem KeptByOperations.tail (K : KeptByOperations P) (outcome : PortOutcome) {s : State} (h : P s) :
    P (tailOutcome outcome s) := by
  unfold tailOutcome
  split
  · exact h
  · exact K.inbound _ _ (K.outside s s.headPort s.tailPort s.timing s.headLostSeen _ s.port s.wires h)
  · exact K.inbound _ _ h
  · exact K.inbound _ _ (K.tailMiss _ h)
  · exact K.outside _ s.headPort s.tailPort s.timing s.headLostSeen _ s.port s.wires (K.tailMiss _ h)

theorem KeptByOperations.port (K : KeptByOperations P) (s : State) (port : LocalPort) (h : P s) :
    P { s with port := port } :=
  K.outside s s.headPort s.tailPort s.timing s.headLostSeen s.notices port s.wires h

theorem KeptByOperations.transfer (K : KeptByOperations P) {row : Option LocalCommand}
    {effect : List Byte → State → State × List Byte}
    (he : ∀ a s, argumentsComplete row a = true → P s → P (effect a s).1) (bytes : List Byte)
    (edges : LselEdges) {s : State} (h : P s) : P (localTransfer row effect bytes edges s) :=
  localTransfer_keeps (fun u _ g => K.port u _ g)
    (fun u _ g => K.outside u u.headPort u.tailPort u.timing u.headLostSeen u.notices u.port _ g) he bytes edges h

theorem KeptByOperations.posting (K : KeptByOperations P) {arguments : List Byte} {s : State}
    (hc : argumentsComplete (some .postInward) arguments = true) (h : P s) : P (localPostInward arguments s).1 := by
  unfold localPostInward
  simp only
  split
  · rename_i hl
    split
    · rename_i he
      cases arguments with
      | nil => cases hc
      | cons length payload =>
        have hp : length.toNat ≤ payload.length := postInward_complete hc hl.1 hl.2
        have ht : (((length :: payload).drop 1).take (byteAt (length :: payload) 0).toNat).length = length.toNat := by
          show (payload.take length.toNat).length = _
          rw [List.length_take]
          omega
        exact K.postInward _ s h he (by rw [ht]; exact hl.1) (by rw [ht]; exact hl.2)
    · exact h
  · exact h

/-- Every command completes and keeps P. -/
theorem KeptByOperations.exec (K : KeptByOperations P) (c : Instr) {s : State} (h : P s) :
    ∃ t, exec c s = .next t ∧ P t := by
  have head : ∀ (u : State) port, P u → P { u with headPort := port } := fun u port g =>
    K.outside u port u.tailPort u.timing u.headLostSeen u.notices u.port u.wires g
  have tail : ∀ (u : State) port, P u → P { u with tailPort := port } := fun u port g =>
    K.outside u u.headPort port u.timing u.headLostSeen u.notices u.port u.wires g
  cases c with
  | deviceReset => exact ⟨_, rfl, K.deviceReset _ h⟩
  | headSideHeaderArrival w =>
    refine ⟨_, rfl, ?_⟩
    unfold headArrival
    refine K.head _ (head _ _ ?_)
    unfold noteHeadLost
    split
    · exact h
    · split <;> exact K.outside s s.headPort s.tailPort s.timing _ s.notices _ s.wires h
  | tailSideHeaderArrival w =>
    refine ⟨_, rfl, ?_⟩
    unfold tailArrival
    exact K.tail _ (tail s _ h)
  | frameWatchdogRunsOut p =>
    refine ⟨_, rfl, ?_⟩
    unfold watchdogExpiry
    cases p
    · exact K.head _ (head s _ h)
    · exact K.tail _ (tail s _ h)
  | freeRunTimerRunsOut =>
    refine ⟨_, rfl, ?_⟩
    unfold freeRunExpiry
    split
    · exact K.outbound _ h
    · exact h
  | inboundFrameSentReport =>
    refine ⟨_, rfl, ?_⟩
    unfold sentReport
    split
    · exact h
    · exact K.report _ _ (K.outside s s.headPort s.tailPort s.timing s.headLostSeen s.notices s.port _ h)
  | converterWordReceived k w =>
    exact ⟨_, rfl, K.outside _ s.headPort s.tailPort s.timing s.headLostSeen s.notices s.port _ (K.word k w s h)⟩
  | armChangeover => exact ⟨_, rfl, K.takingKind (k := .armChangeover) (by decide) h⟩
  | assign => exact ⟨_, rfl, K.takingKind (k := .assign) (by decide) h⟩
  | cancelChangeover => exact ⟨_, rfl, K.takingKind (k := .cancelChangeover) (by decide) h⟩
  | readChannels => exact ⟨_, rfl, K.takingKind (k := .readChannels) (by decide) h⟩
  | readCounters => exact ⟨_, rfl, K.takingKind (k := .readCounters) (by decide) h⟩
  | readPlan => exact ⟨_, rfl, K.takingKind (k := .readPlan) (by decide) h⟩
  | readStatus => exact ⟨_, rfl, K.takingKind (k := .readStatus) (by decide) h⟩
  | relayOut => exact ⟨_, rfl, K.takingKind (k := .relayOut) (by decide) h⟩
  | release => exact ⟨_, rfl, K.takingKind (k := .release) (by decide) h⟩
  | resetNode => exact ⟨_, rfl, K.taking h fun r rest hd _ => K.resetNode s r rest h hd⟩
  | rollCall => exact ⟨_, rfl, K.takingKind (k := .rollCall) (by decide) h⟩
  | writeChannels => exact ⟨_, rfl, K.takingKind (k := .writeChannels) (by decide) h⟩
  | writePlan => exact ⟨_, rfl, K.takingKind (k := .writePlan) (by decide) h⟩
  | writeSettings => exact ⟨_, rfl, K.takingKind (k := .writeSettings) (by decide) h⟩
  | unknownKindRequest => exact ⟨_, rfl, K.taking h fun r rest hd _ => K.unknownKind s r rest h hd⟩
  | lastReplyAnswer => exact ⟨_, rfl, K.taking h fun r rest hd hr => K.stored s r rest h hd hr⟩
  | nodeReset => exact ⟨_, rfl, K.nodeReset _ h⟩
  | noticeBuild => exact ⟨_, rfl, K.notice _ h⟩
  | relayInQueuing => exact ⟨_, rfl, K.relayIn _ h⟩
  | relayExpiry => exact ⟨_, rfl, K.relayBoundary _ _ h⟩
  | status bytes edges => exact ⟨_, rfl, K.transfer (fun _ _ _ g => g) bytes edges h⟩
  | readOutward bytes edges => exact ⟨_, rfl, K.transfer (fun _ u _ g => K.readOutward u g) bytes edges h⟩
  | postInward bytes edges => exact ⟨_, rfl, K.transfer (fun _ u hc g => K.posting hc g) bytes edges h⟩
  | withdrawInward bytes edges => exact ⟨_, rfl, K.transfer (fun _ u _ g => K.withdrawInward u g) bytes edges h⟩
  | readFlags bytes edges => exact ⟨_, rfl, K.transfer (fun _ _ _ g => g) bytes edges h⟩
  | clearFlags bytes edges => exact ⟨_, rfl, K.transfer (fun _ u _ g => K.port u _ g) bytes edges h⟩
  | setMask bytes edges => exact ⟨_, rfl, K.transfer (fun _ u _ g => K.port u _ g) bytes edges h⟩
  | setLock bytes edges => exact ⟨_, rfl, K.transfer (fun _ u _ g => K.port u _ g) bytes edges h⟩
  | clearLock bytes edges => exact ⟨_, rfl, K.transfer (fun _ u _ g => K.port u _ g) bytes edges h⟩
  | unknownCommand bytes edges => exact ⟨_, rfl, K.transfer (fun _ _ _ g => g) bytes edges h⟩

/-- Every step keeps P, if P does not speak of the commands that wait. -/
theorem KeptByOperations.step (K : KeptByOperations P) (hp : ∀ s pending, P s → P { s with pending := pending })
    {s t : State} (h : P s) (hs : step s = .next t) : P t := by
  unfold Sys2Proof.Machine.step at hs
  split at hs
  · cases hs
    exact h
  · rename_i c rest _
    obtain ⟨u, hu, hpu⟩ := K.exec c (hp s rest h)
    rw [hu] at hs
    cases hs
    exact hpu

end Sys2Proof.Machine
end

