-- ==== Sys2Proof/WellFormed.lean ====
section
/-! DEFINITION. Which terms of Instr name a step that the 832 can take. The widths (144 bytes of a frame, a 24-bit word)
are in the types; what is left is that a local command's row names the command of its transaction. -/

namespace Sys2Proof

/-- A stretch that begins a transaction holds its command byte, if it holds a byte at all: that byte names the command of
the row, or no command for UNKNOWN_COMMAND (R178, R179). A later stretch may hold any bytes. -/
def fitsRow (row : Option LocalCommand) (bytes : List Byte) (edges : LselEdges) : Bool :=
  if edges.asserted then
    match bytes with
    | [] => true
    | code :: _ => readLocalCommand code == row
  else true

/-- The well-formed commands. -/
def Instr.wellFormed : Instr → Bool
  | .deviceReset | .headSideHeaderArrival _ | .tailSideHeaderArrival _ | .frameWatchdogRunsOut _ => true
  | .freeRunTimerRunsOut | .inboundFrameSentReport | .converterWordReceived _ _ => true
  | .armChangeover | .assign | .cancelChangeover | .readChannels | .readCounters | .readPlan | .readStatus => true
  | .relayOut | .release | .resetNode | .rollCall | .writeChannels | .writePlan | .writeSettings => true
  | .unknownKindRequest | .lastReplyAnswer | .nodeReset | .noticeBuild | .relayInQueuing | .relayExpiry => true
  | .status bytes edges => fitsRow (some .status) bytes edges
  | .readOutward bytes edges => fitsRow (some .readOutward) bytes edges
  | .postInward bytes edges => fitsRow (some .postInward) bytes edges
  | .withdrawInward bytes edges => fitsRow (some .withdrawInward) bytes edges
  | .readFlags bytes edges => fitsRow (some .readFlags) bytes edges
  | .clearFlags bytes edges => fitsRow (some .clearFlags) bytes edges
  | .setMask bytes edges => fitsRow (some .setMask) bytes edges
  | .setLock bytes edges => fitsRow (some .setLock) bytes edges
  | .clearLock bytes edges => fitsRow (some .clearLock) bytes edges
  | .unknownCommand bytes edges => fitsRow none bytes edges

end Sys2Proof
end

