-- ==== Sys2Proof/Tests/Slice0.lean ====
section
/-! SUPPORT. The model's own tests: the well-formedness smoke tests, and single steps with results taken from the worked
examples and tables of the spec; and, for every statement with hypotheses, states and operands that meet them, clause by
clause and at the boundaries of their ranges. -/

-- One thread: the tests' kernel evaluations, started side by side, would each hold memory of their own.
set_option Elab.async false

namespace Sys2Proof.Tests

open Sys2Proof.Machine

/-! ### Helpers -/

/-- The state after a command. -/
def after (c : Instr) (s : State) : State :=
  match exec c s with
  | .next t => t
  | _ => s

/-- The node of the examples: assigned address 7, identity 3C0F1A229B04H. -/
def node : State :=
  { State.reset with identity := 0x3C0F1A229B04, executor := { Executor.reset with address := 7 } }

/-- A frame number. -/
def num (superframe index : Nat) : FrameNo :=
  { superframe := BitVec.ofNat 24 superframe, index := BitVec.ofNat 6 index }

/-- A frame with vacant slots and an IDLE chunk. -/
def emptyFrame (superframe index : Nat) : Frame :=
  substituteFrame (num superframe index)

/-- The node with both ports in LOCKED, the last outbound frame 1000/61. -/
def lockedNode : State :=
  { node with
    timing := { number := num 1000 61, freeRun := false }
    headPort := { LockPort.reset with lock := .locked, watchdog := true, expected := some (num 1000 62) }
    tailPort := { LockPort.reset with lock := .locked, watchdog := true, expected := some (num 999 60) } }

/-- A bad header: all zeros. -/
def badWire : WireFrame :=
  Vector.replicate 144 0

/-- An individually addressed request. -/
def request (kind : RequestKind) (sequence : Byte) (payload : List Byte) : Request :=
  { addressing := .individual, kind := kind.code, sequence := sequence, payload := payload }

/-- A broadcast request. -/
def broadcast (kind : RequestKind) (payload : List Byte) : Request :=
  { addressing := .broadcast, kind := kind.code, sequence := 0, payload := payload }

/-- A state with one request waiting. -/
def withRequest (s : State) (r : Request) : State :=
  { s with receiver := { s.receiver with requests := [r] } }

/-- The payload of the newest outgoing message. -/
def newest (s : State) : List Byte :=
  match s.inbound.queue.getLast? with
  | some e => e.message.payload
  | none => []

/-- A state with one message of the given link waiting to be sent. -/
def withOutgoing (s : State) (link : OutLink) : State :=
  s.enqueue (buildMessage 7 kindReply 1 [0x00, 0x12]) link

/-! ### Well-formedness -/

/-- A transaction that begins with 02H is no POST INWARD, and one that begins with 01H names a command. -/
theorem test_post_of_another_command_ill_formed : (Instr.postInward [0x02, 0x41] .whole).wellFormed = false := by decide

theorem test_unknown_naming_status_ill_formed : (Instr.unknownCommand [0x01]).wellFormed = false := by decide

/-- A later stretch of a transaction may hold any bytes. -/
theorem test_later_stretch_well_formed : (Instr.postInward [0x02, 0x41] .inside).wellFormed = true := by decide

theorem test_no_word_decodes : decodeTableWord 32 0 = none := by decide

/-- Chapter 11, "Local Control Port Codes": POST INWARD is 03H, CLEAR LOCK 09H, and 0AH names no command. -/
theorem test_local_command_codes :
    readLocalCommand 0x03 = some .postInward ∧ readLocalCommand 0x09 = some .clearLock ∧
      readLocalCommand 0x0A = none ∧ readLocalCommand 0x00 = none := by decide

/-! ### The checks and layouts of Chapter 11 -/

/-- R189: the header check over 31H to 39H. -/
theorem test_header_check :
    headerCheck [0x31, 0x32, 0x33, 0x34, 0x35, 0x36, 0x37, 0x38, 0x39] = 0xF4 := by decide +kernel

/-- R191: the message check over 31H to 39H. -/
theorem test_message_check :
    messageCheck [0x31, 0x32, 0x33, 0x34, 0x35, 0x36, 0x37, 0x38, 0x39] = 0x29B1 := by decide +kernel

/-- R1, R190: what the node sends reads back; a vacant slot with value bits set reads as vacant. -/
theorem test_frame_reads_back :
    receivedFrame (emptyFrame 1000 62).toWire = some (emptyFrame 1000 62) := by decide +kernel

theorem test_vacant_slot_value_ignored : readSlot 0x7F 0x00 0x00 0x05 = none := by decide

/-- Chapter 11: TAKE, 5 is 25H; actions 5 to 7 name none; spare bits are ignored. -/
theorem test_plan_entry_byte : PlanEntry.byte { action := .take, channel := 5 } = 0x25 := by decide

theorem test_plan_entry_spare : readPlanEntry 0xAD = some { action := .take, channel := 5 } := by decide

/-- R77: the chunk counts of the table. -/
theorem test_chunk_counts : [0, 1, 2, 9, 10, 106, 113, 114, 120].map chunkCount = [1, 1, 2, 2, 3, 15, 15, 16, 16] := by
  decide

/-! ### Resets -/

theorem test_device_reset_keeps_identity :
    (after .deviceReset lockedNode).identity = 0x3C0F1A229B04 ∧
      (after .deviceReset lockedNode).headPort.lock = .search := by decide +kernel

theorem test_node_reset_keeps_address :
    (after .nodeReset lockedNode).executor.address = 7 ∧
      (after .nodeReset lockedNode).port.hasFlag .nodeReset = true := by decide +kernel

/-- R5: the first free-run frame after a device reset is 0/1. -/
theorem test_first_free_run :
    (after .freeRunTimerRunsOut node).wires.tailSent = [freeRunFrame (num 0 1)] := by decide +kernel

/-! ### Ports (example of Chapter 1, head-side loss and relock) -/

theorem test_head_accepts :
    (after (.headSideHeaderArrival (emptyFrame 1000 62).toWire) lockedNode).timing.number = num 1000 62 := by
  decide +kernel

theorem test_head_bad_substitutes :
    (after (.headSideHeaderArrival badWire) lockedNode).wires.tailSent = [emptyFrame 1000 62] := by decide +kernel

/-- The fourth miss: free-run 1000/62 with HEAD_LOST set, counters moved, notice detail 1000. -/
theorem test_head_fourth_miss :
    let t := after (.frameWatchdogRunsOut .headSide)
      { lockedNode with headPort := { lockedNode.headPort with missCount := 3, misses := 5 } }
    t.wires.tailSent = [freeRunFrame (num 1000 62)] ∧ t.headPort.misses = 6 ∧ t.headPort.losses = 1 ∧
      t.notices.headLost = some 1000 := by decide +kernel

/-- A node that is not locked on its tail side originates 1000/62. -/
theorem test_originated_number :
    let t := after (.headSideHeaderArrival (emptyFrame 1000 62).toWire) { lockedNode with tailPort := LockPort.reset }
    t.wires.headTx.map Frame.number = [num 1000 62] := by decide +kernel

theorem test_tail_miss_substitutes :
    (after (.tailSideHeaderArrival badWire) lockedNode).wires.headTx = [emptyFrame 999 60] := by decide +kernel

theorem test_tail_confirm_then_locked :
    let t := after (.tailSideHeaderArrival (emptyFrame 3210 5).toWire)
      { lockedNode with tailPort :=
          { LockPort.reset with lock := .confirm, watchdog := true, expected := some (num 3210 5) } }
    t.tailPort.lock = .locked ∧ t.notices.tailRestored = some 3210 := by decide +kernel

/-! ### Slots and converter (examples of Chapters 2 and 4) -/

/-- The channels of the example of Chapter 4. -/
def exampleChannels : ChannelUnit :=
  { inputs := ((ChannelUnit.reset.inputs.set 0
        { InputChannel.reset with enabled := true, sample := 100, word := 212 }).set 2
        { InputChannel.reset with enabled := true, source := .ramp, constant := 0x7FFFFE, sample := 0x7FFFFE,
                                  ramp := 0x7FFFFF })
    outputs := ((ChannelUnit.reset.outputs.set 0
        { OutputChannel.reset with enabled := true, policy := .hold, holding := 40, written := true }).set 2
        { OutputChannel.reset with enabled := true, policy := .zero, holding := 300 })
    converterFrame := none }

theorem test_exchange_inputs :
    exampleChannels.exchange.inputs[0].sample = 212 ∧ exampleChannels.exchange.inputs[2].sample = 0x7FFFFF ∧
      exampleChannels.exchange.inputs[2].ramp = 0x800000 := by decide +kernel

theorem test_exchange_outputs :
    exampleChannels.exchange.converterFrame.map (fun f => (f.words[0], f.words[2])) = some (40, 0) ∧
      exampleChannels.exchange.outputs[2].holding = 0 := by decide +kernel

/-- R69: a word in its turn replaces its register, and the output word of the same number leaves; one out of its turn
does not. -/
theorem test_converter_word :
    let s := { node with chan := exampleChannels.exchange }
    (after (.converterWordReceived 0 55) s).chan.inputs[0].word = 55 ∧
      (after (.converterWordReceived 0 55) s).wires.converterSent = [.word 40] ∧
      after (.converterWordReceived 3 55) s = s := by decide +kernel

/-- R69: an exchange cuts the frame in progress; the words received stay, and the new frame begins at I0. -/
theorem test_converter_cut :
    let t := after (.converterWordReceived 0 55) { node with chan := exampleChannels.exchange }
    t.chan.exchange.inputs[0].word = 55 ∧ (t.chan.exchange.converterFrame.map ConverterFrame.next) = some 0 := by
  decide +kernel

/-- R69: an exchange that cuts a frame marks the new frame on CFS at once, so the words of the two stay apart. -/
theorem test_converter_frame_marks :
    let t := outboundFrameEvent (freeRunFrame (num 5 6)) { lockedNode with chan := exampleChannels }
    let u := outboundFrameEvent (freeRunFrame (num 5 7)) (after (.converterWordReceived 0 55) t)
    (after (.converterWordReceived 0 56) u).wires.converterSent =
      [.frameStart, .word 40, .frameStart, .word 40] := by decide +kernel

/-- A FILL that finds its slot occupied yields; a TAKE empties its slot. -/
theorem test_fill_yields :
    let s := { node with chan := exampleChannels }
    let t := slotEffect { action := .fill, channel := 2 } (some 9) s
    slotAfter s.chan { action := .fill, channel := 2 } (some 9) = some 9 ∧ t.chan.inputs[2].collisions = 1 ∧
      t.notices.collision = some 0x04 := by decide +kernel

theorem test_take_empties :
    let s := { node with chan := exampleChannels }
    slotAfter s.chan { action := .take, channel := 0 } (some 77000) = none ∧
      (slotEffect { action := .take, channel := 0 } (some 77000) s).chan.outputs[0].holding = 77000 := by
  decide +kernel

/-! ### Changeover (example of Chapter 3) -/

/-- Armed for 1000, the boundary 1001/0 fires late. -/
theorem test_late_changeover :
    let t := changeoverCheck 1001 { node with plan := { node.plan with state := .armed, target := some 1000 } }
    t.plan.live = .b ∧ t.plan.applied = some { superframe := 1001, late := true } ∧ t.plan.lateChangeovers = 1 := by
  decide +kernel

/-! ### Requests (examples of Chapter 7) -/

/-- The node of the ARM CHANGEOVER example: superframe counter 16,777,200, index 40. -/
def wrapNode : State :=
  { node with timing := { number := num 16777200 40, freeRun := true } }

theorem test_arm_across_wrap :
    (after .armChangeover (withRequest wrapNode (request .armChangeover 1 [0x00, 0x00, 0x05]))).plan.target = some 5 := by
  decide +kernel

theorem test_arm_stale :
    newest (after .armChangeover (withRequest wrapNode (request .armChangeover 1 [0x7F, 0xFF, 0xF8]))) =
      [0x08, 0x10] := by decide +kernel

theorem test_assign_confirms :
    let t := after .assign
      (withRequest { node with executor := Executor.reset }
        (broadcast .assign [0x3C, 0x0F, 0x1A, 0x22, 0x9B, 0x04, 0x09]))
    t.executor.address = 9 ∧
      newest t = [0x02, 0x01, 0x01, 0x00, 0x3C, 0x0F, 0x1A, 0x22, 0x9B, 0x04, 0x09, 0x01, 0x01] := by decide +kernel

theorem test_cancel_idle_not_armed :
    newest (after .cancelChangeover (withRequest node (request .cancelChangeover 2 []))) = [0x0A, 0x12] := by
  decide +kernel

theorem test_read_channels_output :
    newest (after .readChannels (withRequest node (request .readChannels 2 [0x0F, 0x01]))) =
      [0x00, 0x13, 0x0F, 0x01, 0x0F, 0x01, 0x00, 0x00, 0x00] := by decide +kernel

/-- The MESSAGES group of the example: 4, 0, 1, 0, 1, 0, 0. -/
theorem test_read_counters_clears :
    let t := after .readCounters
      (withRequest
        { node with receiver :=
            { ServiceReceiver.reset with sequenceErrors := 4, checkErrors := 1, requestsDropped := 1 } }
        (request .readCounters 80 [0x01, 0x01]))
    newest t = [0x00, 0x14, 0x01, 0, 4, 0, 0, 0, 1, 0, 0, 0, 1, 0, 0, 0, 0] ∧ t.receiver.sequenceErrors = 0 := by
  decide +kernel

theorem test_read_plan_window :
    newest (after .readPlan (withRequest node (request .readPlan 3 [0x01, 0x00, 0x1F, 0x01]))) =
      [0x00, 0x15, 0x01, 0x00, 0x00, 0x00, 0x1F, 0x01, 0x00] := by decide +kernel

theorem test_read_status_length :
    (newest (after .readStatus (withRequest node (request .readStatus 3 [])))).length = 40 := by decide +kernel

theorem test_relay_out_full :
    newest (after .relayOut
      (withRequest { node with relay := { node.relay with outward := some { payload := [1], countdown := some 3 } } }
        (request .relayOut 51 [0x42]))) = [0x0B, 0x17] := by decide +kernel

theorem test_release_old_source :
    let t := after .release (withRequest node (request .release 9 []))
    t.executor.address = 0 ∧ t.inbound.queue.map (fun e => e.message.source) = [7] := by decide +kernel

theorem test_reset_node_waits :
    let t := after .resetNode (withRequest node (request .resetNode 24 []))
    t.executor.state = .resetWait ∧ t.inbound.queue.map OutEntry.link = [.resetReply] := by decide +kernel

theorem test_roll_call_unassigned_scope_no_record :
    newest (after .rollCall (withRequest node (broadcast .rollCall [0x01]))) = [0x01, 0x01, 0x00, 0x00] := by
  decide +kernel

theorem test_write_channels_locked :
    newest (after .writeChannels
      (withRequest { node with port := { node.port with channelLock := true } }
        (request .writeChannels 5 [0x01, 0x00, 0x80, 0, 0, 0]))) = [0x09, 0x1B] := by decide +kernel

theorem test_write_channels_enables :
    (after .writeChannels
      (withRequest node (request .writeChannels 5 [0x01, 0x02, 0x82, 0x7F, 0xFF, 0xFE]))).chan.inputs[2].ramp =
        0x7FFFFE := by decide +kernel

/-- The draft of the example of Chapter 2: outbound 14 is COPY, 2. -/
def draftNode : State :=
  { node with plan := { node.plan with
      bankB := { Bank.reset with outbound := Bank.reset.outbound.set 14 { action := .copy, channel := 2 } } } }

theorem test_write_plan_conflict :
    newest (after .writePlan (withRequest draftNode (request .writePlan 6 [0x01, 0x03, 0x01, 0x22]))) =
      [0x05, 0x1C] := by decide +kernel

theorem test_write_plan_moves :
    (after .writePlan (withRequest draftNode (request .writePlan 6 [0x00, 0x0D, 0x02, 0x12, 0x02]))).plan.bankB.outbound[13]
      = { action := .copy, channel := 2 } := by decide +kernel

theorem test_write_settings_spare_bit :
    newest (after .writeSettings (withRequest node (request .writeSettings 7 [0x28, 0x04, 0x00]))) = [0x04, 0x1D] := by
  decide +kernel

theorem test_unknown_kind_echoed :
    newest (after .unknownKindRequest
      (withRequest node { addressing := .individual, kind := 0x82, sequence := 4, payload := [] })) = [0x01, 0x82] := by
  decide +kernel

theorem test_last_reply_not_executed :
    let stored := buildMessage 7 kindReply 51 [0x0B, 0x17]
    let s := { node with executor :=
      { node.executor with lastReply := some { kind := 0x17, sequence := 51, reply := stored } } }
    (after .lastReplyAnswer (withRequest s (request .relayOut 51 [0x42]))).inbound.queue.map OutEntry.message =
      [stored] := by decide +kernel

/-! ### Inbound service unit (examples of Chapters 8 and 9) -/

/-- R104: the report of the recorded reply's only chunk applies the node reset. -/
theorem test_report_applies_reset :
    let s := withOutgoing { node with executor := { node.executor with state := .resetWait, relayTimeout := 40 } }
      .resetReply
    let sent := { emptyFrame 5 6 with chunk := { Chunk.idle with tag := 0x03 } }
    let t := after .inboundFrameSentReport
      { s with
        inbound := { s.inbound with emission := some { source := .ownQueue, placed := 2, sent := 1 } }
        wires := { s.wires with headTx := [sent] } }
    t.executor.relayTimeout = 16 ∧ t.executor.state = .ready ∧ t.port.hasFlag .nodeReset = true := by decide +kernel

/-- The append at N14 of the first pass: hop 2, two records, the second id14, address 0, hop 2. -/
theorem test_append_second_record :
    { node with executor := Executor.reset, tailPort := lockedNode.tailPort }.appendedPayload
        ([0x00, 0x01, 0x01, 0x00] ++ [0, 0, 0, 0, 0, 15, 0, 1, 1]) =
      [0x00, 0x02, 0x02, 0x00] ++ [0, 0, 0, 0, 0, 15, 0, 1, 1] ++ [0x3C, 0x0F, 0x1A, 0x22, 0x9B, 0x04, 0, 2, 0] := by
  decide +kernel

/-- R160: hop count 62 becomes 63 with OVERLONG and no record. -/
theorem test_append_overlong :
    node.appendedPayload [0x00, 62, 0x00, 0x00] = [0x00, 63, 0x00, 0x02] := by decide +kernel

/-- Both candidates, last winner LOCAL: the pass-through message wins. -/
theorem test_arbiter_alternates :
    let m := buildMessage 9 kindReply 3 [0x00, 0x12]
    let s := withOutgoing node .plain
    let t := (arbitrate { s with inbound :=
      { s.inbound with slots := s.inbound.slots.set 1 (.complete m), order := [1] } }).2
    t.inbound.lastWinner = .passThrough ∧ t.inbound.slots[1] = .sending m := by decide +kernel

/-- P3 of the example: no slot is FREE, so the message is dropped and the receiver discards its rest. -/
theorem test_pass_dropped :
    let m := buildMessage 9 kindReply 3 [0x00, 0x12]
    let c : Chunk := { tag := 0x01, content := #v[0x00, 14, 0x80, 33, 4, 0, 0, 0] }
    let t := inboundReceive c { node with inbound :=
      { node.inbound with slots := #v[.sending m, .complete m], order := [1] } }
    t.inbound.rx = .discarding ∧ t.inbound.passDropped = 1 ∧
      t.notices.passDropped = some { source := 14, kind := 0x80, sequence := 33 } := by decide +kernel

theorem test_notice_item :
    let t := after .noticeBuild { node with notices := { PendingNotices.reset with relayDelivered := some 24 } }
    newest t = [0x01, 0x09, 24] ∧ t.inbound.noticeNumber = 2 ∧ t.notices.relayDelivered = none := by decide +kernel

theorem test_notice_held_while_unassigned :
    (after .noticeBuild
      { node with executor := Executor.reset, notices := { PendingNotices.reset with headLost := some 3 } }).notices.headLost
        = some 3 := by decide +kernel

theorem test_relay_in_queued :
    let t := after .relayInQueuing { node with relay := { node.relay with inward := .posted [0x41], relayInNumber := 255 } }
    t.relay.inward = .queued [0x41] ∧ t.relay.relayInNumber = 1 := by decide +kernel

/-- Countdown 1 at the boundary of 6103: the 8-byte message expires. -/
theorem test_relay_expiry :
    let t := after .relayExpiry
      { node with
        timing := { node.timing with number := num 6103 0 }
        relay := { node.relay with outward := some { payload := List.replicate 8 0, countdown := some 1 } } }
    t.relay.outward = none ∧ t.notices.relayExpired = some { superframe := 6103, length := 8 } := by decide +kernel

/-! ### Local commands (Chapter 10) -/

/-- R178, R180: LDO carries 00H with the command byte, then the response, and then 00H. -/
theorem test_status_response :
    (after (.status (0x01 :: List.replicate 17 0xFF)) lockedNode).wires.ldo =
      [0x00, 0x80, 0x3C, 0x0F, 0x1A, 0x22, 0x9B, 0x04, 7, 2, 2, 0, 0, 0, 0, 0, 0, 0x00] := by decide +kernel

/-- R178: LSEL released in mid-response; the effect of READ OUTWARD stands. -/
theorem test_read_outward_delivers :
    let t := after (.readOutward [0x02, 0, 0])
      { node with relay := { node.relay with outward := some { payload := [5, 6], countdown := some 9 } } }
    t.wires.ldo = [0x00, 0x80, 2] ∧ t.port.transaction = .closed ∧ t.relay.outward = none ∧
      t.notices.relayDelivered = some 2 := by decide +kernel

/-- R171, R178: length 121 is refused at its length byte; a transaction that ends before its payload does is no command. -/
theorem test_post_too_long_and_cut :
    (after (.postInward [0x03, 121, 0] .whole) node).wires.ldo = [0x00, 0x00, 0x83] ∧
      (after (.postInward [0x03, 2, 0x41] .whole) node).relay.inward = .empty := by decide +kernel

/-- A transaction in two stretches, and the byte after its payload ignored. -/
theorem test_post_in_stretches :
    (after (.postInward [0x41, 0x42, 0x43] .closing) (after (.postInward [0x03, 2] .opening) node)).relay.inward =
      .posted [0x41, 0x42] := by decide +kernel

theorem test_withdraw_queued :
    let s := withOutgoing { node with relay := { node.relay with inward := .queued [2] } } .inwardBox
    (after .withdrawInward s).inbound.queue = [] := by decide +kernel

theorem test_read_flags :
    (after (.readFlags [0x05, 0, 0, 0]) { node with port := { node.port with flags := 0x05, mask := 0x41 } }).wires.ldo =
      [0x00, 0x80, 0x05, 0x41] := by decide +kernel

theorem test_clear_flags_ignores_bit_seven :
    (after (.clearFlags [0x06, 0x81, 0, 0]) { node with port := { node.port with flags := 0x05 } }).wires.ldo =
      [0x00, 0x00, 0x80, 0x04] := by decide +kernel

theorem test_set_mask_asserts_lint :
    (after (.setMask [0x07, 0xFF]) { node with port := { node.port with flags := 0x40 } }).lint = true := by
  decide +kernel

/-- R185: a device reset ends the transaction, and no byte is taken until LSEL has been released and asserted again. -/
theorem test_reset_bars_transaction :
    let s := after .deviceReset (after (.clearLock [] .opening) node)
    (after (.setLock [0x08] .inside) s).port.channelLock = false ∧
      (after .setLock (after (.setLock [0x08] .closing) s)).port.channelLock = true := by decide +kernel

theorem test_clear_lock :
    (after .clearLock { node with port := { node.port with channelLock := true } }).port.channelLock = false := by
  decide +kernel

theorem test_unknown_command : (after (.unknownCommand [0x0A, 0]) node).wires.ldo = [0x00, 0x84] := by decide +kernel

/-! ### Witnesses: the block as a whole, ports and frame events -/

open Sys2Proof.Claims

theorem witness_StepRunsFrontCommand :
    { node with pending := [.status, .setLock] }.pending = Instr.status :: [.setLock] ∧ node.pending = [] := by decide

/-- The node in a transaction of the local control port. -/
def transacting (x : Transaction) (s : State) : State :=
  { s with port := { s.port with transaction := x } }

theorem witness_DeviceResetClearsEveryBlock :
    node.port.transaction = .closed ∧ (transacting (.collecting [0x03]) node).port.transaction ≠ .closed := by decide

/-- The node while its own oldest message is being sent. -/
def sendingNode (link : OutLink) : State :=
  let s := withOutgoing node link
  { s with inbound := { s.inbound with emission := some { source := .ownQueue, placed := 1, sent := 0 } } }

theorem witness_NodeResetKeepsAndClears : (sendingNode .plain).inbound.sendingOwn ∧ ¬node.inbound.sendingOwn :=
  ⟨⟨_, rfl, rfl⟩, fun ⟨_, h, _⟩ => nomatch h⟩

/-- A port in LOCKED that expects 1000/62, after the given number of misses. -/
def locked (misses : Nat) : LockPort :=
  { lock := .locked, missCount := misses, expected := some (num 1000 62), watchdog := true, misses := 5, losses := 2 }

/-- A port in CONFIRM that expects 1000/62. -/
def confirming : LockPort :=
  { lock := .confirm, missCount := 4, expected := some (num 1000 62), watchdog := true, misses := 5, losses := 2 }

/-- Both ports alike. -/
def withPorts (p : LockPort) : State :=
  { node with headPort := p, tailPort := p }

theorem good_read : receivedFrame (emptyFrame 1000 62).toWire = some (emptyFrame 1000 62) := by decide +kernel

theorem bad_read : receivedFrame badWire = none := by decide +kernel

theorem other_read : receivedFrame (emptyFrame 1000 63).toWire = some (emptyFrame 1000 63) := by decide +kernel

theorem bad_is_missing : MissingFrame badWire (num 1000 62) := by
  intro f h
  rw [bad_read] at h
  cases h

theorem other_is_missing : MissingFrame (emptyFrame 1000 63).toWire (num 1000 62) := by
  intro f h
  rw [other_read] at h
  cases h
  decide

/-- Head-side and tail-side in LOCKED and in CONFIRM, with the frame that is expected. -/
theorem witness_SideTakesInSequenceFrame :
    receivedFrame (emptyFrame 1000 62).toWire = some (emptyFrame 1000 62) ∧
    (∀ p, p = locked 3 ∨ p = confirming → p.expected = some (emptyFrame 1000 62).number) ∧
    (withPorts (locked 3)).headPort.lock = .locked ∧ (withPorts confirming).headPort.lock = .confirm ∧
    (withPorts (locked 3)).tailPort.lock = .locked ∧ (withPorts confirming).tailPort.lock = .confirm :=
  ⟨good_read, by rintro p (rfl | rfl) <;> rfl, rfl, rfl, rfl, rfl⟩

/-- Head-side and tail-side misses, the third and the fourth, by a bad header, one out of sequence and an absent one. -/
theorem witness_SideMiss :
    (withPorts (locked 2)).headPort.missCount < 3 ∧ (withPorts (locked 3)).tailPort.missCount = 3 ∧
    (∀ n, (locked n).lock = .locked ∧ (locked n).expected = some (num 1000 62) ∧ (locked n).watchdog = true) ∧
    MissingFrame badWire (num 1000 62) ∧ MissingFrame (emptyFrame 1000 63).toWire (num 1000 62) :=
  ⟨by decide, rfl, fun _ => ⟨rfl, rfl, rfl⟩, bad_is_missing, other_is_missing⟩

theorem witness_PortsHuntAndConfirm :
    node.headPort.lock = .search ∧ node.tailPort.lock = .search ∧ receivedFrame badWire = none ∧
    receivedFrame (emptyFrame 1000 62).toWire = some (emptyFrame 1000 62) ∧ confirming.lock = .confirm ∧
    confirming.expected = some (num 1000 62) ∧ MissingFrame badWire (num 1000 62) ∧ confirming.watchdog = true :=
  ⟨rfl, rfl, bad_read, good_read, rfl, rfl, bad_is_missing, rfl⟩

theorem witness_FreeRunTimerOriginatesFrame : node.timing.freeRun = true := rfl

/-- The tail-side port in LOCKED and not, at index 0 and at index 63. -/
theorem witness_OutboundEvent :
    lockedNode.tailPort.lock = .locked ∧ node.tailPort.lock ≠ .locked ∧ (emptyFrame 1000 63).number.index ≠ 0 ∧
      (emptyFrame 1001 0).number.index = 0 := by decide

/-- The node in SPLIT since the changeover applied at 1000. -/
def splitNode : State :=
  { node with plan := { node.plan with
      live := .b, state := .split, applied := some { superframe := 1000, late := false }, oldBank := some .a } }

/-- With the tail-side port not in LOCKED: not in SPLIT, and in SPLIT with frames of 1000, 1000 + 8388607, 999 and
1000 + 8388608. -/
theorem witness_BoundaryActionsAtIndexZeroOnly :
    (boundaryTaken (num 1001 0) node).plan.state ≠ .split ∧ splitNode.tailPort.lock ≠ .locked ∧
    (∀ n ∈ [num 1000 63, num 8389607 1, num 999 63, num 8389608 1], (boundaryTaken n splitNode).plan.state = .split ∧
      (boundaryTaken n splitNode).plan.applied = some { superframe := 1000, late := false }) ∧
    ((num 1000 63).superframe - 1000).toNat < 8388608 ∧ ((num 8389607 1).superframe - 1000).toNat < 8388608 ∧
    8388608 ≤ ((num 999 63).superframe - 1000).toNat ∧ 8388608 ≤ ((num 8389608 1).superframe - 1000).toNat := by
  decide +kernel

/-- Frames of 999, of 1000, of the last superframe after it and of the first before it. -/
theorem witness_InboundEventSelectsBankAndSends :
    node.plan.state ≠ .split ∧ splitNode.plan.state = .split ∧
    splitNode.plan.applied = some { superframe := 1000, late := false } ∧ splitNode.plan.oldBank = some .a ∧
    ((num 1000 0).superframe - 1000).toNat < 8388608 ∧ ((num (1000 + 8388607) 0).superframe - 1000).toNat < 8388608 ∧
    8388608 ≤ ((num (1000 + 8388608) 0).superframe - 1000).toNat ∧
    8388608 ≤ ((num 999 63).superframe - 1000).toNat := by decide

/-! ### Witnesses: slots, channels and plans -/

/-- Entries 0 to 6 of an example plan; every other entry is PASS. -/
def examplePlan : Plan :=
  (((((((Vector.replicate 32 { action := .pass, channel := 0 }).set 1 { action := .copy, channel := 0 }).set 2
    { action := .take, channel := 2 }).set 3 { action := .fill, channel := 0 }).set 4
    { action := .fill, channel := 1 }).set 5 { action := .force, channel := 2 }).set 6 { action := .take, channel := 7 })

/-- Slots 3 and 5 of an example frame are occupied. -/
def exampleSlots : Slots :=
  ((Vector.replicate 32 none).set 3 (some 9)).set 5 (some 10)

theorem witness_SlotActionsLeaveSlots :
    let act := fun j : Fin 32 => examplePlan[j].action
    let input := fun j : Fin 32 => exampleChannels.inputs[examplePlan[j].channel].enabled
    let output := fun j : Fin 32 => exampleChannels.outputs[examplePlan[j].channel].enabled
    act 0 = .pass ∧ act 1 = .copy ∧ act 2 = .take ∧ output 2 = true ∧ act 6 = .take ∧ output 6 = false ∧
    act 3 = .fill ∧ input 3 = true ∧ exampleSlots[(3 : Fin 32)] ≠ none ∧ exampleSlots[(4 : Fin 32)] = none ∧
    act 4 = .fill ∧ input 4 = false ∧ act 5 = .force ∧ input 5 = true := by decide +kernel

/-- A vacant slot of an enabled input's FILL entry. -/
theorem witness_SlotActions_fill_vacant :
    (examplePlan.set 7 { action := .fill, channel := 0 })[(7 : Fin 32)].action = .fill ∧
      exampleChannels.inputs[(0 : Fin 8)].enabled = true ∧ exampleSlots[(7 : Fin 32)] = none := by decide +kernel

/-- Outputs 0 (named by entry 1), 2 (by entry 2), 7 (by entry 6, disabled) and 1 (by none). -/
theorem witness_OutputDrivenByItsOneEntry :
    (∀ j : Fin 32, examplePlan[j].namesOutput 1 = false) ∧
    (∀ x ∈ [((0 : Fin 8), (1 : Fin 32)), (2, 2), (7, 6)], examplePlan[x.2].namesOutput x.1 = true ∧
      ∀ i : Fin 32, i ≠ x.2 → examplePlan[i].namesOutput x.1 = false) ∧
    exampleChannels.outputs[(0 : Fin 8)].enabled = true ∧ exampleChannels.outputs[(7 : Fin 8)].enabled = false ∧
    exampleSlots[(1 : Fin 32)] = none ∧ (exampleSlots.set 1 (some 3))[(1 : Fin 32)] = some 3 := by decide +kernel

theorem witness_YieldsAreCountedAndReported :
    exampleChannels.inputs[(0 : Fin 8)].enabled = true ∧ yields examplePlan exampleSlots 0 = 1 ∧
      exampleChannels.inputs[(1 : Fin 8)].enabled = false := by decide +kernel

theorem witness_SlotOrderDoesNotMatter :
    ((List.finRange 32).reverse).Perm (List.finRange 32) ∧
      ∀ (k : Fin 8) (i j : Fin 32), examplePlan[i].namesOutput k = true → examplePlan[j].namesOutput k = true →
        i = j :=
  ⟨List.reverse_perm _, by decide +kernel⟩

/-- A CONSTANT input and a written output, a held one, a zeroed one and a disabled one. -/
theorem witness_ConverterExchangeFollowsTables :
    let ch := exampleChannels.tableWrite [.input 1 true .constant 5, .output 1 true .hold]
    (ch.inputs[(0 : Fin 8)].enabled = true ∧ ch.inputs[(0 : Fin 8)].source = .port) ∧
    (ch.inputs[(1 : Fin 8)].enabled = true ∧ ch.inputs[(1 : Fin 8)].source = .constant) ∧
    (ch.inputs[(2 : Fin 8)].enabled = true ∧ ch.inputs[(2 : Fin 8)].source = .ramp) ∧
    ch.inputs[(3 : Fin 8)].enabled = false ∧
    (ch.outputs[(0 : Fin 8)].enabled = true ∧ ch.outputs[(0 : Fin 8)].written = true) ∧
    (ch.outputs[(1 : Fin 8)].enabled = true ∧ ch.outputs[(1 : Fin 8)].policy = .hold) ∧
    (ch.outputs[(2 : Fin 8)].enabled = true ∧ ch.outputs[(2 : Fin 8)].written = false ∧
      ch.outputs[(2 : Fin 8)].policy = .zero) ∧ ch.outputs[(3 : Fin 8)].enabled = false := by decide +kernel

/-- At I0 and at I7, out of turn, and with no converter frame in progress. -/
theorem witness_ConverterWordReplacesRegister :
    (node.chan.exchange.converterFrame.map ConverterFrame.next) = some 0 ∧ (3 : Fin 8) ≠ 0 ∧
    { words := Vector.replicate 8 0, next := 7 : ConverterFrame }.next = 7 ∧ node.chan.converterFrame = none := by
  decide +kernel

/-- The node armed for superframe 1000. -/
def armedNode : State :=
  { node with plan := { node.plan with state := .armed, target := some 1000 } }

/-- The node in a changeover state, the target present in ARMED alone. -/
def inState (state : ChangeoverState) : State :=
  { node with plan := { node.plan with state := state, target := if state = .armed then some 1000 else none } }

theorem witness_BoundaryFiresChangeoverOrCompletesRefresh :
    armedNode.plan.state = .armed ∧ armedNode.plan.target = some 1000 ∧
    ((1000 : Superframe) - 1000).toNat < 8388608 ∧ ((8389607 : Superframe) - 1000).toNat < 8388608 ∧
    8388608 ≤ ((8389608 : Superframe) - 1000).toNat ∧ 8388608 ≤ ((999 : Superframe) - 1000).toNat ∧
    (inState .refresh).plan.state = .refresh ∧ (inState .idle).plan.state ≠ .refresh ∧
    (inState .idle).plan.state ≠ .armed := by decide

/-! ### Witnesses: messages and requests -/

theorem witness_FrameReadsBackFromTheLine :
    (emptyFrame 1 2).slots[(31 : Fin 32)] = none ∧ exampleSlots[(3 : Fin 32)] = some 9 := by decide +kernel

/-- Positions 7, 8 and 15 with codes that name a source or policy; positions 16, 7 and 8 with what names nothing. -/
theorem witness_EntriesReadBack :
    ((7 : Byte).toNat = (7 : Fin 8).val ∧ (0x82 : Byte).extractLsb' 0 2 = InputSource.ramp.code) ∧
    ((8 : Byte).toNat = (0 : Fin 8).val + 8 ∧ (15 : Byte).toNat = (7 : Fin 8).val + 8 ∧
      (0x81 : Byte).extractLsb' 0 2 = VacancyPolicy.zero.code) ∧
    (16 ≤ (16 : Byte).toNat ∧ ((7 : Byte).toNat < 8 ∧ ((0x83 : Byte).extractLsb' 0 2).toNat = 3) ∧
      (8 ≤ (8 : Byte).toNat ∧ 2 ≤ ((0x82 : Byte).extractLsb' 0 2).toNat)) ∧
    readPlanEntry 0x4F = some { action := .force, channel := 7 } ∧ 5 ≤ ((0x50 : Byte).extractLsb' 4 3).toNat := by
  decide

/-- A good message of the longest payload, for the broadcast destination, for this node, for another and for none. -/
def longMessage (destination : Byte) : Message :=
  Message.sealed
    { destination := destination, source := 0, kind := 0x17, sequence := 9, payload := List.replicate 120 0x41
      check := 0 }

theorem longMessage_length (d : Byte) : (longMessage d).payload.length = 120 := by
  show (List.replicate 120 (0x41 : Byte)).length = 120
  exact List.length_replicate

theorem longMessage_intact (d : Byte) : (longMessage d).check = messageCheck (longMessage d).body := by
  unfold longMessage Message.sealed Message.body
  simp only

theorem witness_MessageChunksMakeRequest (d : Byte) :
    (longMessage d).payload.length ≤ 120 ∧ (longMessage d).check = messageCheck (longMessage d).body ∧
    (longMessage 63).destination = 63 ∧
    ((longMessage 7).destination = node.executor.address ∧ (longMessage 7).destination ≠ 0 ∧
      (longMessage 7).destination ≠ 63) ∧
    ((longMessage 8).destination ≠ 63 ∧ (longMessage 8).destination ≠ node.executor.address) ∧
    ((longMessage 0).destination ≠ 63 ∧ (longMessage 0).destination = 0) :=
  ⟨(longMessage_length d).le, longMessage_intact d, rfl, by decide, by decide, by decide⟩

/-- A message of the longest payload whose check is wrong. -/
def spoiledMessage : Message :=
  { longMessage 7 with check := (longMessage 7).check + 1 }

theorem spoiled_check (m : Message) (h : m.check = messageCheck m.body) :
    { m with check := m.check + 1 }.check ≠ messageCheck { m with check := m.check + 1 }.body := by
  show m.check + 1 ≠ messageCheck m.body
  rw [← h]
  generalize m.check = c
  intro e
  bv_omega

theorem spoiledMessage_check : spoiledMessage.check ≠ messageCheck spoiledMessage.body :=
  spoiled_check _ (longMessage_intact 7)

/-- A chunk of the given tag whose fifth content byte is the given length. -/
def chunkOf (tag length : Byte) : Chunk :=
  { tag := tag, content := #v[0x00, 14, 0x80, 33, length, 0, 0, 0] }

/-- A failed check; ONLY with 2, FIRST with 1 and with 121, FIRST with 2 and with 120; and every other tag in IDLE and in
ASSEMBLING, the second chunk of three and of two. -/
theorem witness_MessageChunks_errors :
    spoiledMessage.payload.length ≤ 120 ∧ spoiledMessage.check ≠ messageCheck spoiledMessage.body ∧
    (Misfit (chunkOf 0x04 2) ∧ Misfit (chunkOf 0x01 1) ∧ Misfit (chunkOf 0x01 121)) ∧
    (2 ≤ (chunkOf 0x01 2).content[4].toNat ∧ (chunkOf 0x01 120).content[4].toNat ≤ 120) ∧
    node.receiver.assembler = .idle ∧ ReadAsIdle 0x00 ∧ ReadAsIdle 0x05 ∧
    { node.receiver with assembler := .assembling [] 1 3 }.assembler = .assembling [] 1 3 ∧ 1 + 1 < 3 ∧ 2 ≤ 1 + 1 ∧
    1 + 1 ≠ 3 := by
  refine ⟨(longMessage_length 7).le, spoiledMessage_check, ?_, by decide, rfl, ?_, ?_, rfl, by decide, by decide,
    by decide⟩
  · unfold Misfit
    decide
  · exact .inl rfl
  · exact .inr (by decide)

/-- The node with n requests waiting, numbered from 1. -/
def crowded (n : Nat) : State :=
  { node with receiver := { node.receiver with
      requests := (List.range n).map fun i => request .readStatus (BitVec.ofNat 8 (i + 1)) [] } }

theorem witness_RequestAdmission :
    let r := request .readStatus 9 []
    request .readStatus 2 [] ∈ (crowded 3).receiver.requests ∧ r.sequence ≠ 0 ∧
    (∀ q ∈ (crowded 4).receiver.requests, q.sequence ≠ r.sequence) ∧ (crowded 3).receiver.requests.length < 4 ∧
    4 ≤ (crowded 4).receiver.requests.length := by decide

theorem witness_PassThroughStoresMessageWhole (d : Byte) :
    (longMessage d).payload.length ≤ 120 ∧ (longMessage d).check = messageCheck (longMessage d).body ∧
    (longMessage d).kind ≠ 0x82 ∧ node.inbound.rx = .idle ∧ node.inbound.slots[(0 : Fin 2)] = .free ∧
    (let u := { node.inbound with slots := node.inbound.slots.set 0 (.complete (longMessage 7)) }
     u.slots[(1 : Fin 2)] = .free ∧ ∀ j : Fin 2, j < 1 → u.slots[j] ≠ .free) := by
  refine ⟨(longMessage_length d).le, longMessage_intact d, show (0x17 : Byte) ≠ 0x82 by decide, rfl, by decide, rfl,
    fun j hj => ?_⟩
  have : j = 0 := by omega
  subst this
  intro h
  cases h

/-- A well-formed ROLL-CALL RETURN, one of scope 3, a spoiled message, and both slots taken. -/
theorem witness_PassThrough_returns_and_drops :
    (∀ p, (buildMessage 0 0x82 0 p).check = messageCheck (buildMessage 0 0x82 0 p).body) ∧
    (node.passThrough (buildMessage 0 0x82 0 [0, 1, 0, 0])).isSome = true ∧
    node.passThrough (buildMessage 0 0x82 0 [3, 1, 0, 0]) = none ∧
    spoiledMessage.check ≠ messageCheck spoiledMessage.body ∧
    (let v : Vector PassSlot 2 := #v[.sending (longMessage 1), .complete (longMessage 2)]
     ∀ k : Fin 2, v[k] ≠ .free) := by
  refine ⟨fun p => ?_, by decide +kernel, by decide +kernel, spoiledMessage_check, fun k => ?_⟩
  · unfold buildMessage Message.sealed Message.body
    simp only
  · have : k = 0 ∨ k = 1 := by omega
    rcases this with rfl | rfl <;> exact fun h => nomatch h

/-- A receiver that discards, and one that has the first chunk of three and of two. -/
theorem witness_PassThrough_states :
    { node.inbound with rx := .discarding }.rx = .discarding ∧
    (let u := { node.inbound with rx := .receiving 0 1 3, slots := #v[.receiving [1, 2], .free] }
     u.rx = .receiving 0 1 3 ∧ u.slots[(0 : Fin 2)] = .receiving [1, 2]) ∧
    1 + 1 < 3 ∧ 2 ≤ 1 + 1 ∧ 1 + 1 ≠ 3 ∧ Misfit (chunkOf 0x04 121) := by
  refine ⟨rfl, ⟨rfl, rfl⟩, by decide, by decide, by decide, ?_⟩
  unfold Misfit
  decide

/-- The node with as many REPLY messages in its outgoing queue. -/
def full (n : Nat) : State :=
  (List.range n).foldl (fun s _ => withOutgoing s .plain) node

theorem witness_RequestWaitsForRoom :
    5 ≤ (full 5).nonNotices ∧ (full 5).executor.state ≠ .resetWait ∧
    (withRequest (full 5) (request .readStatus 3 [])).receiver.requests = [request .readStatus 3 []] ∧
    (∀ k : RequestKind, (0x1E : Byte) ≠ k.code) ∧ (broadcast .rollCall [0x00]).payload = [0x00] ∧
    (broadcast .rollCall [0x01]).payload = [0x01] ∧ (full 5).tailPort.lock ≠ .locked ∧
    (broadcast .assign (sixBytes node.identity ++ [62])).payload = sixBytes (full 5).identity ++ [62] := by
  refine ⟨by decide +kernel, by decide +kernel, rfl, fun k => ?_, rfl, rfl, by decide +kernel, by decide +kernel⟩
  cases k <;> decide

theorem witness_RequestWaits_reset_wait :
    { node with executor := { node.executor with state := .resetWait } }.executor.state = .resetWait := rfl

theorem witness_StoredReplyAnswersRetry :
    let stored := buildMessage 7 kindReply 51 [0x0B, 0x17]
    let s := { full 4 with executor :=
      { node.executor with lastReply := some { kind := 0x17, sequence := 51, reply := stored } } }
    (request .relayOut 51 [0x42]).addressing = .individual ∧ (request .relayOut 51 [0x42]).sequence ≠ 0 ∧
    (s.executor.lastReply.map fun e => (e.kind, e.sequence)) = some (0x17, 51) ∧
    s.executor.state ≠ .resetWait ∧ s.nonNotices < 5 := by decide +kernel

/-- A node that takes requests, with nothing in its last-reply store, takes its one request. -/
theorem takes_of (s : State) (r : Request) (hl : s.executor.lastReply = none) (hs : s.executor.state ≠ .resetWait)
    (hr : s.nonNotices < 5) : Takes r.kind (withRequest s r) r [] := by
  refine ⟨rfl, hs, rfl, fun _ => ⟨hr, fun _ e he => ?_⟩⟩
  rw [show (withRequest s r).executor.lastReply = none from hl] at he
  cases he

/-- The same with four messages in the outgoing queue. -/
theorem takes_full (r : Request) : Takes r.kind (withRequest (full 4) r) r [] :=
  takes_of _ r (by decide +kernel) (by decide +kernel) (by decide +kernel)

/-- The same in every changeover state. -/
theorem takes_inState (c : ChangeoverState) (r : Request) : Takes r.kind (withRequest (inState c) r) r [] :=
  takes_of _ r rfl (show node.executor.state ≠ .resetWait by decide) (show node.nonNotices < 5 by decide)

theorem takes_node (r : Request) : Takes r.kind (withRequest node r) r [] :=
  takes_of node r rfl (by decide) (by decide)

theorem witness_GeneralChecksRefuse :
    (Takes 0x0F (withRequest node { addressing := .individual, kind := 0x0F, sequence := 4, payload := [] })
      { addressing := .individual, kind := 0x0F, sequence := 4, payload := [] } [] ∧
      ∀ k : RequestKind, (0x0F : Byte) ≠ k.code) ∧
    Takes RequestKind.assign.code (withRequest node (request .assign 4 [])) (request .assign 4 []) [] ∧
    (Takes RequestKind.relayOut.code (withRequest node (request .relayOut 4 (List.replicate 121 0)))
      (request .relayOut 4 (List.replicate 121 0)) [] ∧
      ¬LengthAllowed .relayOut (request .relayOut 4 (List.replicate 121 0)).payload) ∧
    Takes RequestKind.release.code (withRequest node (broadcast .release [])) (broadcast .release []) [] := by
  refine ⟨⟨takes_node _, fun k => ?_⟩, takes_node _, ⟨takes_node _, ?_⟩, takes_node _⟩
  · cases k <;> decide
  · rintro ⟨_, h⟩
    revert h
    decide

/-- Targets 1, 8,388,607, 8,388,608 and 0 superframes ahead of 16,777,200, and the four changeover states. -/
theorem witness_ArmChangeover :
    (∀ p, Takes 0x10 (withRequest wrapNode (request .armChangeover 1 p)) (request .armChangeover 1 p) []) ∧
    ([(0xFF, 0xFF, 0xF1), (0x7F, 0xFF, 0xEF), (0x7F, 0xFF, 0xF0), (0xFF, 0xFF, 0xF0)].map
      fun x : Byte × Byte × Byte =>
        ((x.1 ++ x.2.1 ++ x.2.2 : Superframe) - wrapNode.timing.number.superframe).toNat) =
      [1, 8388607, 8388608, 0] ∧
    (∀ c, (inState c).plan.state = c) ∧ wrapNode.plan.state = .idle := by
  refine ⟨fun p => takes_of _ _ rfl (by decide) (by decide), by decide, fun c => rfl, rfl⟩

theorem witness_CancelChangeover :
    (∀ c, Takes 0x12 (withRequest (inState c) (request .cancelChangeover 1 [])) (request .cancelChangeover 1 []) [] ∧
      (inState c).plan.state = c) ∧ (inState .armed).plan.target = some 1000 :=
  ⟨fun _ => ⟨takes_inState _ _, rfl⟩, rfl⟩

/-- The node's identity and another, and the addresses 0, 1, 62 and 63. -/
theorem witness_AssignSetsAddressAndConfirms :
    (∀ (identity : Identity) (address : Byte),
      let r := broadcast .assign (sixBytes identity ++ [address])
      Takes 0x11 (withRequest (full 4) r) r [] ∧ r.addressing = .broadcast ∧
        r.payload = sixBytes identity ++ [address]) ∧
    (full 4).nonNotices < 5 ∧ (full 4).identity = 0x3C0F1A229B04 ∧ (0x3C0F1A229B05 : Identity) ≠ (full 4).identity ∧
    1 ≤ (1 : Byte).toNat ∧ (62 : Byte).toNat ≤ 62 ∧ (0 : Byte).toNat = 0 ∧ 63 ≤ (63 : Byte).toNat :=
  ⟨fun _ _ => ⟨takes_full _, rfl, rfl⟩, by decide +kernel, by decide +kernel, by decide +kernel, by decide⟩

/-- Every kind with no payload, and every other kind with any payload, can be taken with four messages queued. -/
theorem witness_takes (k : RequestKind) (payload : List Byte) :
    Takes k.code (withRequest (full 4) (request k 3 payload)) (request k 3 payload) [] ∧
      Takes k.code (withRequest (full 4) (broadcast k payload)) (broadcast k payload) [] ∧
      (request k 3 payload).addressing = .individual ∧ (broadcast k payload).addressing = .broadcast :=
  ⟨takes_full _, takes_full _, rfl, rfl⟩

theorem witness_ReleaseGivesUpAddress :
    Takes 0x18 (withRequest (full 4) (request .release 3 [])) (request .release 3 []) [] :=
  takes_full _

/-- The windows 0 to 15 and 15 alone, an empty one and one that ends at 17. -/
theorem witness_ReadChannelsReturnsWindow :
    (∀ p, Takes 0x13 (withRequest (full 4) (request .readChannels 3 p)) (request .readChannels 3 p) []) ∧
    (1 ≤ (16 : Byte).toNat ∧ (0 : Byte).toNat + (16 : Byte).toNat ≤ 16) ∧
    ((15 : Byte).toNat + (1 : Byte).toNat ≤ 16) ∧ (0 : Byte).toNat = 0 ∧ 16 < (15 : Byte).toNat + (2 : Byte).toNat :=
  ⟨fun _ => takes_full _, by decide⟩

theorem witness_ReadCountersReturnsAndClears :
    (∀ p, Takes 0x14 (withRequest (full 4) (request .readCounters 3 p)) (request .readCounters 3 p) []) ∧
    3 ≤ (3 : Byte).toNat ∧ 2 ≤ (2 : Byte).toNat :=
  ⟨fun _ => takes_full _, by decide⟩

/-- Bank and direction 2, windows at the end of the plan and past it, and the draft bank in REFRESH and in IDLE. -/
theorem witness_ReadPlanReturnsWindow :
    (∀ c p, Takes 0x15 (withRequest (inState c) (request .readPlan 3 p)) (request .readPlan 3 p) []) ∧
    2 ≤ (2 : Byte).toNat ∧ (31 : Byte).toNat + (1 : Byte).toNat ≤ 32 ∧ 32 < (31 : Byte).toNat + (2 : Byte).toNat ∧
    BankName.b ≠ (inState .refresh).plan.live ∧ (inState .refresh).plan.state = .refresh ∧
    BankName.a = (inState .refresh).plan.live ∧ (inState .idle).plan.state ≠ .refresh :=
  ⟨fun _ _ => takes_inState _ _, by decide⟩

theorem witness_ReadStatusReturnsRecord :
    Takes 0x16 (withRequest (full 4) (request .readStatus 3 [])) (request .readStatus 3 []) [] ∧
    armedNode.plan.target = some 1000 ∧ node.plan.target = none ∧ node.plan.applied = none ∧
    splitNode.plan.applied = some { superframe := 1000, late := false } ∧ node.relay.outward = none :=
  ⟨takes_full _, rfl, rfl, rfl, rfl, rfl⟩

/-- The node with an outward message held under a countdown. -/
def holding (countdown : Option Byte) : State :=
  { node with relay := { node.relay with outward := some { payload := [1, 2], countdown := countdown } } }

theorem witness_RelayOutFillsBoxOrIsFull :
    Takes 0x17 (withRequest (holding none) (request .relayOut 3 [0x41])) (request .relayOut 3 [0x41]) [] ∧
    (holding none).relay.outward ≠ none ∧ (full 4).relay.outward = none ∧ (full 4).executor.relayTimeout ≠ 0 ∧
    { node.executor with relayTimeout := 0 }.relayTimeout = 0 ∧ (List.replicate 120 (0x41 : Byte)).length ≤ 120 :=
  ⟨takes_of _ _ rfl (by decide) (by decide), by decide, by decide +kernel, by decide +kernel, rfl, by decide⟩

theorem witness_ResetNodeAnswersThenWaits :
    Takes 0x19 (withRequest (full 4) (request .resetNode 3 [])) (request .resetNode 3 []) [] ∧
      Takes 0x19 (withRequest (full 4) (broadcast .resetNode [])) (broadcast .resetNode []) [] :=
  ⟨takes_full _, takes_full _⟩

/-- Scopes 0, 1 and 2, at a node whose tail-side port is in LOCKED and at one where it is not. -/
theorem witness_RollCallOriginatesAtTail :
    (∀ scope, Takes 0x1A (withRequest (full 4) (broadcast .rollCall [scope])) (broadcast .rollCall [scope]) []) ∧
    (full 4).tailPort.lock ≠ .locked ∧ (full 4).nonNotices < 5 ∧ (1 : Byte).toNat ≤ 1 ∧ 2 ≤ (2 : Byte).toNat ∧
    Takes 0x1A (withRequest lockedNode (broadcast .rollCall [0x00])) (broadcast .rollCall [0x00]) [] ∧
    lockedNode.tailPort.lock = .locked :=
  ⟨fun _ => takes_full _, by decide +kernel, by decide +kernel, by decide, by decide,
    takes_of _ _ rfl (by decide) (by decide), rfl⟩

/-- Counts 0, 1, 16 and 17; entries that read, one that does not, and two of one position. -/
theorem witness_WriteChannelsAppliesWholeOrRefuses :
    (∀ p, Takes 0x1B (withRequest (full 4) (request .writeChannels 3 p)) (request .writeChannels 3 p) []) ∧
    (full 4).port.channelLock = false ∧ { node.port with channelLock := true }.channelLock = true ∧
    (16 : Byte).toNat ≤ 16 ∧ 16 < (17 : Byte).toNat ∧ [0x10, 0x80, 0, 0, (0 : Byte)].length = 5 * (1 : Byte).toNat ∧
    readChannelEntries [1, 0x10, 0x80, 0, 0, 0] 1 = none ∧
    readChannelEntries [1, 0x0F, 0x80, 0, 0, 0] 1 = some [.output 7 true .hold] ∧
    ([ChannelEntry.output 7 true .hold].map ChannelEntry.position).Nodup ∧
    readChannelEntries [2, 0, 0x80, 0, 0, 0, 0, 0, 0, 0, 0] 2 = some [.input 0 true .port 0, .input 0 false .port 0] ∧
    ¬([ChannelEntry.input 0 true .port 0, .input 0 false .port 0].map ChannelEntry.position).Nodup :=
  ⟨fun _ => takes_full _, by decide +kernel, rfl, by decide, by decide, by decide, by decide, by decide, by decide,
    by decide, by decide⟩

/-- Every changeover state; windows that end at 32 and at 33; an action that names nothing; a write that names output 2
once, and one that names it twice. -/
theorem witness_WritePlanTestsAndWritesDraft :
    (∀ c p, Takes 0x1C (withRequest (inState c) (request .writePlan 3 p)) (request .writePlan 3 p) [] ∧
      (inState c).plan.state = c) ∧
    2 ≤ (2 : Byte).toNat ∧ (31 : Byte).toNat + (1 : Byte).toNat ≤ 32 ∧ 32 < (31 : Byte).toNat + (2 : Byte).toNat ∧
    readPlanEntry 0x50 = none ∧
    [(0x12 : Byte)].map readPlanEntry = [{ action := .copy, channel := 2 }].map some ∧
    (∀ k : Fin 8, { Bank.reset with outbound := Bank.reset.outbound.set 31 { action := .copy, channel := 2 } }.namings k
      ≤ 1) ∧
    2 ≤ { outbound := Bank.reset.outbound.set 31 { action := .copy, channel := 2 }
          inbound := Bank.reset.inbound.set 3 { action := .take, channel := 2 } : Bank }.namings 2 :=
  ⟨fun _ _ => ⟨takes_inState _ _, rfl⟩, by decide, by decide, by decide, by decide, by decide,
    by decide +kernel, by decide +kernel⟩

theorem witness_WriteSettingsWritesBoth :
    (∀ p, Takes 0x1D (withRequest (full 4) (request .writeSettings 3 p)) (request .writeSettings 3 p) []) ∧
      4 ≤ (4 : Byte).toNat ∧ (3 : Byte).toNat < 4 :=
  ⟨fun _ => takes_full _, by decide⟩

/-! ### Witnesses: the inbound service unit, notices, relay boxes and the local port -/

/-- A node with one frame to report, of the given tag. -/
def reporting (tag : Byte) (s : State) : State :=
  { s with wires := { s.wires with headTx := [{ emptyFrame 5 6 with chunk := { Chunk.idle with tag := tag } }] } }

/-- Tags 0 and 5; a first and a middle chunk; a last and an only one, of a slot and of each kind of own message. -/
theorem witness_ReportEndsEmission :
    (∀ tag s, (reporting tag s).wires.headTx = [{ emptyFrame 5 6 with chunk := { Chunk.idle with tag := tag } }]) ∧
    node.inbound.emission = none ∧ 5 ≤ (5 : Byte).toNat ∧
    (∀ link, (sendingNode link).inbound.emission = some { source := .ownQueue, placed := 1, sent := 0 } ∧
      (sendingNode link).inbound.queue.map OutEntry.link = [link]) ∧
    { node.inbound with emission := some { source := .slot 1, placed := 2, sent := 1 } }.emission =
      some { source := .slot 1, placed := 2, sent := 1 } ∧
    { sendingNode .resetReply with executor := { node.executor with state := .resetWait } }.executor.state =
      .resetWait :=
  ⟨fun _ _ => rfl, rfl, by decide, fun _ => ⟨rfl, rfl⟩, rfl, rfl⟩

/-- No candidate; a slot alone and a slot after an own message; an own message alone and one after a slot. -/
theorem witness_ArbiterStartsByAlternation :
    node.inbound.emission = none ∧ node.inbound.order = [] ∧ node.inbound.queue = [] ∧
    (let u := { node.inbound with slots := node.inbound.slots.set 1 (.complete (longMessage 0)), order := [1] }
     u.order = [1] ∧ u.slots[(1 : Fin 2)] = .complete (longMessage 0) ∧ u.queue = [] ∧ u.lastWinner = .ownQueue) ∧
    (full 1).inbound.queue ≠ [] ∧ { (full 1).inbound with lastWinner := .passThrough }.lastWinner = .passThrough ∧
    (withOutgoing { node with relay := { node.relay with inward := .queued [1] } } .inwardBox).inbound.queue.map
      OutEntry.link = [.inwardBox] ∧ (full 1).inbound.queue.map OutEntry.link = [.plain] :=
  ⟨rfl, rfl, rfl, ⟨rfl, rfl, rfl, rfl⟩, by decide +kernel, rfl, rfl, rfl⟩

/-- A received ONLY chunk completes a message, which is then the only candidate, and one of two after an own message. -/
theorem witness_ArbiterStartsByAlternation_received :
    let m := buildMessage 9 kindReply 3 []
    let v := handedOn (some (m.chunk 0)) node
    let w := handedOn (some (m.chunk 0)) (full 1)
    (v.inbound.order = [0] ∧ v.inbound.slots[(0 : Fin 2)] = .complete m ∧ v.inbound.queue = []) ∧
    (w.inbound.order = [0] ∧ w.inbound.slots[(0 : Fin 2)] = .complete m ∧ w.inbound.queue ≠ [] ∧
      w.inbound.lastWinner = .ownQueue) := by decide +kernel

theorem free_slots (link : OutLink) (k : Fin 2) : (sendingNode link).inbound.slots[k] = .free := by
  show InboundUnit.reset.slots[k] = .free
  revert k
  decide

/-- While an own message is being sent, with both slots FREE, the pass-through buffer is consistent. -/
theorem sending_consistent (link : OutLink) : PassBufferConsistent (sendingNode link) := by
  refine ⟨fun k => ⟨?_, ?_⟩, fun k => ⟨?_, ?_⟩, by show ([] : List (Fin 2)).Nodup; decide, fun k => ⟨?_, ?_⟩, ?_⟩
  · rintro ⟨_, h⟩
    rw [free_slots] at h
    cases h
  · rintro ⟨_, _, h⟩
    cases h
  · rintro ⟨_, h⟩
    rw [free_slots] at h
    cases h
  · intro h
    cases h
  · rintro ⟨_, h⟩
    rw [free_slots] at h
    cases h
  · rintro ⟨_, h, g⟩
    cases h
    cases g
  · intro _ h
    cases h

/-- Of a REPLY of two bytes, which takes two chunks, one and both placed. -/
theorem witness_EmissionGoesOnInEveryFrame :
    let m := buildMessage 7 kindReply 1 [0x00, 0x12]
    let e : Emission := { source := .ownQueue, placed := 1, sent := 0 }
    PassBufferConsistent (sendingNode .plain) ∧ (sendingNode .plain).inbound.emission = some e ∧
      Emits (sendingNode .plain).inbound e m ∧ 1 < m.chunks ∧ m.chunks ≤ 2 :=
  ⟨sending_consistent _, rfl, ⟨_, _, rfl, rfl⟩, by decide +kernel, by decide +kernel⟩

/-- Hop counts 1, 61, 62 and 63; 11 and 12 records; and what is not well formed. -/
theorem witness_RollCallAppendCountsAndRecords :
    (∀ p, (buildMessage 0 0x82 0 p).kind = 0x82 ∧ (buildMessage 0 0x82 0 p).payload = p) ∧
    (2 : Byte).toNat ≤ 2 ∧ 1 ≤ (1 : Byte).toNat ∧ (61 : Byte).toNat < 62 ∧ 62 ≤ (62 : Byte).toNat ∧
    (63 : Byte).toNat ≤ 63 ∧ (11 : Byte).toNat < 12 ∧ (12 : Byte).toNat = 12 ∧
    (List.replicate 108 (0 : Byte)).length = 9 * (12 : Byte).toNat ∧ 3 ≤ (3 : Byte).toNat ∧ 64 ≤ (64 : Byte).toNat ∧
    13 ≤ (13 : Byte).toNat ∧ (List.replicate 107 (0 : Byte)).length ≠ 9 * (12 : Byte).toNat ∧
    ¬((0x01 : Byte) = 0x00 ∨ ((0x01 : Byte) = 0x01 ∧ node.executor.address = 0)) :=
  ⟨fun _ => ⟨rfl, rfl⟩, by decide, by decide, by decide, by decide, by decide, by decide, by decide, by decide,
    by decide, by decide, by decide, by decide, by decide⟩

/-- Kind 9 pending and enabled, and nothing pending. -/
theorem witness_NoticeBuildCarriesEnabledKinds :
    let s := { node with notices := { PendingNotices.reset with relayDelivered := some 24 } }
    1 ≤ s.executor.address.toNat ∧ s.executor.address.toNat ≤ 62 ∧
    (∃ kind < 10, (noticeDetail s.notices kind).isSome = true ∧ s.executor.noticeEnable.getLsbD kind = true) ∧
    (∀ x ∈ s.inbound.queue, x.message.kind ≠ 0x81) ∧ ¬∃ kind < 10, (noticeDetail node.notices kind).isSome = true := by
  decide

theorem witness_PostedMessageIsQueued :
    { node.relay with inward := .posted [1] }.inward = .posted [1] ∧ 1 ≤ node.executor.address.toNat ∧
    node.executor.address.toNat ≤ 62 ∧ (full 4).nonNotices < 5 ∧ 5 ≤ (full 5).nonNotices ∧
    State.reset.executor.address = 0 :=
  ⟨rfl, by decide, by decide, by decide +kernel, by decide +kernel, rfl⟩

theorem witness_OutwardMessageCountsDownAndExpires :
    node.relay.outward = none ∧ (∀ c, (holding c).relay.outward = some { payload := [1, 2], countdown := c }) ∧
      2 ≤ (2 : Byte).toNat :=
  ⟨rfl, fun _ => rfl, by decide⟩

/-- The node with an inward box. -/
def withInward (box : InwardBox) : State :=
  { full 1 with relay := { node.relay with inward := box } }

theorem witness_RelayBoxCommands :
    (∀ bytes s, (transacting (.collecting bytes) s).port.transaction = .collecting bytes ∧
      (transacting (.collecting bytes) s).relay = s.relay) ∧
    node.relay.outward = none ∧ (holding none).relay.outward = some { payload := [1, 2], countdown := none } ∧
    (0 : Byte).toNat = 0 ∧ 121 ≤ (121 : Byte).toNat ∧ ([] : List Byte).length + 1 = (1 : Byte).toNat ∧
    (List.replicate 119 (0x41 : Byte)).length + 1 = (120 : Byte).toNat ∧ (withInward .empty).relay.inward = .empty ∧
    (withInward (.posted [1])).relay.inward = .posted [1] ∧ (withInward (.sending [1])).relay.inward = .sending [1] ∧
    (withOutgoing (withInward (.queued [1])) .inwardBox).relay.inward = .queued [1] ∧
    (withOutgoing (withInward (.queued [1])) .inwardBox).inbound.queue =
      (full 1).inbound.queue ++ [{ message := buildMessage 7 kindReply 1 [0x00, 0x12], link := .inwardBox }] ++ [] ∧
    (∀ y ∈ (full 1).inbound.queue, y.link ≠ .inwardBox) :=
  ⟨fun _ _ => ⟨rfl, rfl⟩, rfl, rfl, by decide, by decide, by decide, by decide, rfl, rfl, rfl, rfl, rfl,
    by decide +kernel⟩

/-- Every state of a transaction; a stretch of the row and one of another row; and a POST INWARD one byte short of its
length. -/
theorem witness_LocalReadsRespondAndChangeNothing :
    (∀ x, (transacting x node).port.transaction = x) ∧ node.port.transaction = .closed ∧
    node.relay.outward = none ∧ (holding none).relay.outward = some { payload := [1, 2], countdown := none } ∧
    ((0 : Byte).toNat = 0 ∧ 10 ≤ (10 : Byte).toNat) ∧ readLocalCommand 0x01 = some .status ∧
    OfRow (some .status) node ([0x01] ++ [0x00]) .whole ∧ ¬OfRow (some .status) node [0x02] .whole ∧
    (1 ≤ (1 : Byte).toNat ∧ (120 : Byte).toNat ≤ 120) ∧ ([] : List Byte).length + 1 < (2 : Byte).toNat := by
  refine ⟨fun _ => rfl, rfl, rfl, rfl, by decide, by decide, ?_, ?_, by decide, by decide⟩
  · rintro code ⟨_, rest, h⟩
    cases h
    decide
  · intro h
    exact absurd (h 0x02 ⟨rfl, [], rfl⟩) (by decide)

theorem witness_LocalWritesFlagsMaskAndLock :
    ∀ x ∈ [Transaction.collecting [0x06], .collecting [0x07], .collecting []],
      (transacting x node).port.transaction = x := by decide

/-! ### Witnesses: invariants -/

theorem witness_StepKeepsPortsConsistent :
    PortsConsistent { lockedNode with pending := [.status] } ∧
      ∃ t, step { lockedNode with pending := [.status] } = .next t :=
  ⟨by unfold PortsConsistent LockPort.consistent; decide, _, rfl⟩

theorem witness_StepKeepsPlanConsistent :
    PlanConsistent { splitNode with pending := [.status] } ∧
      ∃ t, step { splitNode with pending := [.status] } = .next t :=
  ⟨by unfold PlanConsistent; decide +kernel, _, rfl⟩

theorem witness_StepKeepsDisabledChannelsZero :
    DisabledChannelsZero { node with chan := exampleChannels } ∧
      ∃ t, step { node with chan := exampleChannels } = .next t :=
  ⟨by unfold DisabledChannelsZero; decide +kernel, _, rfl⟩

theorem witness_StepKeepsBoundsOfQueuesAndNumbers :
    QueuesBounded (crowded 4) ∧ NumbersInRange (crowded 4) ∧ ∃ t, step (crowded 4) = .next t := by
  refine ⟨⟨by decide, by decide, by decide, ?_⟩, ⟨by decide, by decide, by decide, ?_, ?_⟩, _, rfl⟩
  · intro e h
    cases h
  · intro box h
    cases h
  · rintro p (h | h | h) <;> cases h

theorem witness_StepKeepsServiceUnitConsistent :
    PassBufferConsistent (sendingNode .plain) ∧ LinksConsistent (sendingNode .plain) ∧
      ∃ t, step (sendingNode .plain) = .next t := by
  refine ⟨sending_consistent _, ⟨fun _ => rfl, ?_, ?_, ?_, fun _ => rfl⟩, _, rfl⟩
  · intro p h
    cases h
  · intro p h
    cases h
  · intro h
    cases h

end Sys2Proof.Tests
end

section
/-! PROOFS. Trunk framing and port lock: the numbering of frames, what the ports hand on, the two frame events, and the
agreement of ports, timers and numbering that every step keeps (R2 to R20). -/

namespace Sys2Proof.Machine

open Sys2Proof.Claims

/-! ### Numbering (R2) -/

theorem FrameNo.succ_of_index_ne {n : FrameNo} (h : n.index ≠ 63) : n.succ = { n with index := n.index + 1 } :=
  if_neg h

theorem FrameNo.succ_of_index_eq {n : FrameNo} (h : n.index = 63) :
    n.succ = { superframe := n.superframe + 1, index := 0 } :=
  if_pos h

/-- Successors that stay inside a superframe move the index alone. -/
theorem FrameNo.iterate_succ_inside (m : Superframe) (k : Nat) :
    ∀ i : FrameIndex, i.toNat + k ≤ 63 →
      FrameNo.succ^[k] { superframe := m, index := i } = { superframe := m, index := i + BitVec.ofNat 6 k } := by
  induction k with
  | zero => intro i _; simp
  | succ k ih =>
    intro i h
    have hi : i ≠ 63 := by bv_omega
    have hs : (i + 1).toNat + k ≤ 63 := by bv_omega
    rw [Function.iterate_succ_apply, FrameNo.succ_of_index_ne (n := { superframe := m, index := i }) hi, ih _ hs,
      FrameNo.mk.injEq]
    exact ⟨rfl, by bv_omega⟩

/-- Settles O5: 63 - i successors lead to index 63, one more to index 0 of the next superframe, and i more to
index i. -/
theorem sixtyFourSuccessorsMakeASuperframe : Obligations.SixtyFourSuccessorsMakeASuperframe := by
  unfold Obligations.SixtyFourSuccessorsMakeASuperframe
  rintro ⟨m, i⟩
  have toEnd : FrameNo.succ^[63 - i.toNat] { superframe := m, index := i } = { superframe := m, index := 63 } := by
    rw [FrameNo.iterate_succ_inside _ _ _ (by omega), FrameNo.mk.injEq]
    exact ⟨rfl, by bv_omega⟩
  have toIndex : FrameNo.succ^[i.toNat] { superframe := m + 1, index := 0 } = { superframe := m + 1, index := i } := by
    rw [FrameNo.iterate_succ_inside _ _ _ (by bv_omega), FrameNo.mk.injEq]
    exact ⟨rfl, by bv_omega⟩
  have steps : 64 = i.toNat + (1 + (63 - i.toNat)) := by omega
  rw [steps, Function.iterate_add_apply, Function.iterate_add_apply, toEnd, Function.iterate_one,
    FrameNo.succ_of_index_eq (n := { superframe := m, index := 63 }) rfl, toIndex]

/-! ### What the ports hand on (R9 to R13, R16, R17) -/

theorem exec_headSideHeaderArrival (w : WireFrame) (s : State) :
    exec (.headSideHeaderArrival w) s = .next (headOutcome (s.headPort.header (receivedFrame w)).2
      { noteHeadLost (receivedFrame w) s with headPort := (s.headPort.header (receivedFrame w)).1 }) := rfl

theorem exec_tailSideHeaderArrival (w : WireFrame) (s : State) :
    exec (.tailSideHeaderArrival w) s = .next (tailOutcome (s.tailPort.header (receivedFrame w)).2
      { s with tailPort := (s.tailPort.header (receivedFrame w)).1 }) := rfl

theorem exec_frameWatchdogRunsOut_headSide (s : State) :
    exec (.frameWatchdogRunsOut .headSide) s =
      .next (headOutcome s.headPort.absent.2 { s with headPort := s.headPort.absent.1 }) := rfl

theorem exec_frameWatchdogRunsOut_tailSide (s : State) :
    exec (.frameWatchdogRunsOut .tailSide) s =
      .next (tailOutcome s.tailPort.absent.2 { s with tailPort := s.tailPort.absent.1 }) := rfl

/-- A header's HEAD_LOST flag is noted as R13 says. -/
theorem noteHeadLost_some (f : Frame) (s : State) : noteHeadLost (some f) s = headLostNoted s f.headLost := by
  cases h : f.headLost <;> simp [noteHeadLost, headLostNoted, State.setFlag, h]

theorem noteHeadLost_eq_arrivalNoted (w : WireFrame) (s : State) :
    noteHeadLost (receivedFrame w) s = arrivalNoted s w := by
  unfold arrivalNoted
  cases receivedFrame w with
  | none => rfl
  | some f => exact noteHeadLost_some f s

@[simp] theorem arrivalNoted_timing (s : State) (w : WireFrame) : (arrivalNoted s w).timing = s.timing := by
  unfold arrivalNoted
  split <;> rfl

@[simp] theorem arrivalNoted_notices (s : State) (w : WireFrame) : (arrivalNoted s w).notices = s.notices := by
  unfold arrivalNoted
  split <;> rfl

/-- A header that does not carry the expected number, and a watchdog that runs out, are one and the same miss of a
locked port (R8). -/
theorem LockPort.miss_of_header_or_watchdog (p : LockPort) {n : FrameNo} (hl : p.lock = .locked)
    (he : p.expected = some n) :
    (∀ w, MissingFrame w n → p.header (receivedFrame w) = p.miss) ∧ (p.watchdog = true → p.absent = p.miss) :=
  ⟨fun _ hm => p.header_miss _ n hl he hm, fun hw => (p.absent_running hw).2 hl⟩

/-- A tail-side miss ends the reception as R142 says. -/
theorem InboundUnit.tailMiss_eq_receptionEnded (u : InboundUnit) : u.tailMiss = receptionEnded u := by
  unfold InboundUnit.tailMiss receptionEnded
  obtain ⟨_, _, rx, _, _, _, _, _, _⟩ := u
  cases rx <;> rfl

/-- Settles O6: the port takes the header (`LockPort.header_inSequence`), and its outcome makes the frame event. -/
theorem headSideTakesInSequenceFrame : Obligations.HeadSideTakesInSequenceFrame := by
  unfold Obligations.HeadSideTakesInSequenceFrame
  intro s w f hw he
  obtain ⟨locked, confirm⟩ := s.headPort.header_inSequence f he
  constructor
  · intro hl
    rw [exec_headSideHeaderArrival, hw, locked hl, noteHeadLost_some, portAccepted, ← hl]
    rfl
  · intro hl
    rw [exec_headSideHeaderArrival, hw, confirm hl, noteHeadLost_some]
    rfl

/-- Settles O8: the same for the tail-side port, whose outcome makes an inbound frame event. -/
theorem tailSideTakesInSequenceFrame : Obligations.TailSideTakesInSequenceFrame := by
  unfold Obligations.TailSideTakesInSequenceFrame
  intro s w f hw he
  obtain ⟨locked, confirm⟩ := s.tailPort.header_inSequence f he
  constructor
  · intro hl
    rw [exec_tailSideHeaderArrival, hw, locked hl, portAccepted, ← hl]
    rfl
  · intro hl
    rw [exec_tailSideHeaderArrival, hw, confirm hl]
    rfl

/-- Settles O7: both causes are the same miss (`LockPort.miss_of_header_or_watchdog`), below the fourth and at it. -/
theorem headSideMiss : Obligations.HeadSideMiss := by
  unfold Obligations.HeadSideMiss
  intro s n hl he
  obtain ⟨header, absent⟩ := s.headPort.miss_of_header_or_watchdog hl he
  constructor
  · intro hc
    have miss := s.headPort.miss_stays n he hc
    constructor
    · intro w hm
      rw [exec_headSideHeaderArrival, header w hm, miss, noteHeadLost_eq_arrivalNoted]
      rfl
    · intro hw
      rw [exec_frameWatchdogRunsOut_headSide, absent hw, miss]
      rfl
  · intro hc
    have miss := s.headPort.miss_loses n he hc
    constructor
    · intro w hm
      rw [exec_headSideHeaderArrival, header w hm, miss, noteHeadLost_eq_arrivalNoted, ← arrivalNoted_timing s w,
        ← arrivalNoted_notices s w]
      rfl
    · intro hw
      rw [exec_frameWatchdogRunsOut_headSide, absent hw, miss]
      rfl

/-- Settles O9: the same for the tail-side port, which also gives up the message being received. -/
theorem tailSideMiss : Obligations.TailSideMiss := by
  unfold Obligations.TailSideMiss
  intro s n hl he
  obtain ⟨header, absent⟩ := s.tailPort.miss_of_header_or_watchdog hl he
  rw [← InboundUnit.tailMiss_eq_receptionEnded]
  constructor
  · intro hc
    have miss := s.tailPort.miss_stays n he hc
    constructor
    · intro w hm
      rw [exec_tailSideHeaderArrival, header w hm, miss]
      rfl
    · intro hw
      rw [exec_frameWatchdogRunsOut_tailSide, absent hw, miss]
      rfl
  · intro hc
    have miss := s.tailPort.miss_loses n he hc
    constructor
    · intro w hm
      rw [exec_tailSideHeaderArrival, header w hm, miss]
      rfl
    · intro hw
      rw [exec_frameWatchdogRunsOut_tailSide, absent hw, miss]
      rfl

/-- A hunting port lets a bad header pass. -/
theorem LockPort.header_hunting_bad (p : LockPort) (hl : p.lock = .search) : p.header none = (p, .quiet) := by
  simp [LockPort.header, hl]

/-- A hunting port confirms at a good header. -/
theorem LockPort.header_hunting_good (p : LockPort) (f : Frame) (hl : p.lock = .search) :
    p.header (some f) = ({ p with lock := .confirm, expected := some f.number.succ, watchdog := true }, .quiet) := by
  simp [LockPort.header, hl]

/-- Settles O10: in SEARCH and in a failed confirmation the outcome is quiet, which hands nothing on. -/
theorem portsHuntAndConfirm : Obligations.PortsHuntAndConfirm := by
  unfold Obligations.PortsHuntAndConfirm
  intro s w
  refine ⟨?headBad, ?tailBad, ?headGood, ?tailGood, ?headConfirm, ?tailConfirm⟩
  case headBad =>
    intro hl hw
    rw [exec_headSideHeaderArrival, hw, s.headPort.header_hunting_bad hl]
    rfl
  case tailBad =>
    intro hl hw
    rw [exec_tailSideHeaderArrival, hw, s.tailPort.header_hunting_bad hl]
    rfl
  case headGood =>
    intro f hl hw
    rw [exec_headSideHeaderArrival, hw, s.headPort.header_hunting_good f hl, noteHeadLost_some]
    rfl
  case tailGood =>
    intro f hl hw
    rw [exec_tailSideHeaderArrival, hw, s.tailPort.header_hunting_good f hl]
    rfl
  case headConfirm =>
    intro n hl he
    constructor
    · intro hm
      rw [exec_headSideHeaderArrival, s.headPort.header_unconfirmed _ n hl he hm, noteHeadLost_eq_arrivalNoted]
      rfl
    · intro hw
      rw [exec_frameWatchdogRunsOut_headSide, (s.headPort.absent_running hw).1 hl]
      rfl
  case tailConfirm =>
    intro n hl he
    constructor
    · intro hm
      rw [exec_tailSideHeaderArrival, s.tailPort.header_unconfirmed _ n hl he hm]
      rfl
    · intro hw
      rw [exec_frameWatchdogRunsOut_tailSide, (s.tailPort.absent_running hw).1 hl]
      rfl

/-- Settles O11: the timer's frame is the one made with HEAD_LOST set. -/
theorem freeRunTimerOriginatesFrame : Obligations.FreeRunTimerOriginatesFrame := by
  unfold Obligations.FreeRunTimerOriginatesFrame
  intro s h
  have hx : exec .freeRunTimerRunsOut s = .next (freeRunExpiry s) := rfl
  rw [hx, freeRunExpiry, if_pos h]
  rfl

/-! ### The inbound frame event as one update (R20) -/

/-- The arbiter moves the inbound unit and the relay unit alone. -/
theorem arbitrate_eq (s : State) :
    (arbitrate s).2 = { s with inbound := (arbitrate s).2.inbound, relay := (arbitrate s).2.relay } := by
  obtain ⟨_, _, _, _, _, h⟩ := arbitrate_frame s
  rw [h]

/-- The channels and the COLLISION detail at the arbiter are what the selected bank's inbound plan makes of them. -/
theorem inboundStages_worked (f : Frame) (received : Option Chunk) (s : State) :
    let worked := slotEffects (s.plan.selectInbound f.number.superframe).1.inbound f.slots s
    (inboundStages f received s).chan = worked.chan ∧
      (inboundStages f received s).notices.collision = worked.notices.collision := by
  unfold inboundStages
  obtain ⟨hc, hn⟩ := slotEffects_congr (s.plan.selectInbound f.number.superframe).1.inbound f.slots
    (s := s) (u := { s with plan := (s.plan.selectInbound f.number.superframe).2 }) rfl rfl
  cases received with
  | none => exact ⟨hc, hn⟩
  | some c =>
    simp only
    obtain ⟨_, _, _, _, _, _, h⟩ := inboundReceive_frame c
      (slotEffects (s.plan.selectInbound f.number.superframe).1.inbound f.slots
        { s with plan := (s.plan.selectInbound f.number.superframe).2 })
    rw [h]
    exact ⟨hc, hn⟩

/-- Selection, slot processing and reception as one update. -/
theorem inboundStages_eq (f : Frame) (received : Option Chunk) (s : State) :
    inboundStages f received s =
      { s with
        plan := (s.plan.selectInbound f.number.superframe).2
        chan := (slotEffects (s.plan.selectInbound f.number.superframe).1.inbound f.slots s).chan
        notices := { s.notices with
          collision :=
            (slotEffects (s.plan.selectInbound f.number.superframe).1.inbound f.slots s).notices.collision
          passDropped := (handedOn received s).notices.passDropped }
        inbound := (handedOn received s).inbound } := by
  obtain ⟨hc, hn⟩ := inboundStages_worked f received s
  have hv : (inboundStages f received s).inbound = (handedOn received s).inbound ∧
      (inboundStages f received s).notices.passDropped = (handedOn received s).notices.passDropped := by
    obtain ⟨hi, hp, -⟩ := inboundStages_reception f received s
    cases received <;> exact ⟨hi, hp⟩
  obtain ⟨hi, hp⟩ := hv
  obtain ⟨_, _, t, _, ⟨_, _, _, _, _, _, ht⟩, h⟩ := inboundStages_frame f received s
  rw [← hc, ← hn, ← hi, ← hp, h, ht]

/-- Reception leaves the relay unit alone. -/
theorem handedOn_relay (received : Option Chunk) (s : State) : (handedOn received s).relay = s.relay := by
  cases received with
  | none => rfl
  | some c =>
    obtain ⟨_, _, _, _, _, _, h⟩ := inboundReceive_frame c s
    unfold handedOn
    simp only
    rw [h]

/-- R20: everything that an inbound frame event does, as one update of the state. -/
theorem inboundFrameEvent_eq (f : Frame) (received : Option Chunk) (s : State) :
    inboundFrameEvent f received s =
      { s with
        plan := (s.plan.selectInbound f.number.superframe).2
        chan := (slotEffects (s.plan.selectInbound f.number.superframe).1.inbound f.slots s).chan
        notices := { s.notices with
          collision :=
            (slotEffects (s.plan.selectInbound f.number.superframe).1.inbound f.slots s).notices.collision
          passDropped := (handedOn received s).notices.passDropped }
        inbound := (arbitrate (handedOn received s)).2.inbound
        relay := (arbitrate (handedOn received s)).2.relay
        wires := { s.wires with headTx := s.wires.headTx ++
          [{ f with
            chunk := (arbitrate (handedOn received s)).1
            slots := slotsAfter (s.plan.selectInbound f.number.superframe).1.inbound f.slots s.chan }] } } := by
  have hs := inboundStages_eq f received s
  obtain ⟨hchunk, hinbound, hrelay⟩ := arbitrate_congr (s := handedOn received s) (u := inboundStages f received s)
    (by rw [hs]) (by rw [hs, handedOn_relay])
  rw [inboundFrameEvent_stages, arbitrate_eq, hchunk, hinbound, hrelay, hs]
  rfl

/-! ### The bank of an inbound frame (R38, R39, R54, R57) -/

theorem atOrAfter_iff (m n : Superframe) : atOrAfter m n = true ↔ (m - n).toNat < 8388608 :=
  decide_eq_true_iff

/-- Outside SPLIT the live bank works the frame, and the plan store stays. -/
theorem PlanStore.selectInbound_live (p : PlanStore) (m : Superframe) (h : p.state ≠ .split) :
    p.selectInbound m = (p.bank p.live, p) := by
  unfold PlanStore.selectInbound
  split
  · exact absurd ‹_› h
  · rfl

/-- In SPLIT a frame at or after the applied superframe is worked by the live bank and ends SPLIT. -/
theorem PlanStore.selectInbound_ends (p : PlanStore) (m : Superframe) {a : Applied} (h : p.state = .split)
    (ha : p.applied = some a) (hm : (m - a.superframe).toNat < 8388608) :
    p.selectInbound m = (p.bank p.live, { p with state := .refresh, oldBank := none }) := by
  simp only [PlanStore.selectInbound, h, ha, (atOrAfter_iff _ _).2 hm, if_true]

/-- In SPLIT a frame before the applied superframe is worked by the old bank, and the plan store stays. -/
theorem PlanStore.selectInbound_before (p : PlanStore) (m : Superframe) {a : Applied} (h : p.state = .split)
    (ha : p.applied = some a) (hm : 8388608 ≤ (m - a.superframe).toNat) :
    p.selectInbound m = (p.bank (p.oldBank.getD p.draft), p) := by
  have hb : ¬atOrAfter m a.superframe = true := fun g => absurd ((atOrAfter_iff _ _).1 g) (by omega)
  simp only [PlanStore.selectInbound, h, ha, if_neg hb]

/-- The selection moves the changeover state and the old bank alone. -/
theorem PlanStore.selectInbound_frame (p : PlanStore) (m : Superframe) :
    ∃ state oldBank, (p.selectInbound m).2 = { p with state := state, oldBank := oldBank } := by
  obtain h | ⟨-, h⟩ := p.selectInbound_cases m <;> rw [h] <;> exact ⟨_, _, rfl⟩

@[simp] theorem slotEffects_converterFrame (plan : Plan) (slots : Slots) (s : State) :
    (slotEffects plan slots s).chan.converterFrame = s.chan.converterFrame := by
  obtain ⟨_, _, ⟨-, -, hw⟩, h⟩ := slotEffects_frame plan slots s
  rw [h, hw]

/-- Settles O15: the event is one update (`inboundFrameEvent_eq`), and the selection gives the bank. -/
theorem inboundEventSelectsBankAndSends : Obligations.InboundEventSelectsBankAndSends := by
  unfold Obligations.InboundEventSelectsBankAndSends
  intro f received s
  obtain ⟨_, _, hp⟩ := s.plan.selectInbound_frame f.number.superframe
  rw [inboundFrameEvent_eq]
  refine ⟨rfl, rfl, rfl, rfl, rfl, rfl, rfl, rfl, rfl, slotEffects_converterFrame .., by rw [hp], by rw [hp],
    by rw [hp], by rw [hp], rfl, rfl, rfl, (s.plan.selectInbound f.number.superframe).1, rfl, rfl, rfl, ?outside,
    ?inSplit⟩
  case outside =>
    intro h
    rw [s.plan.selectInbound_live _ h]
    exact ⟨rfl, rfl⟩
  case inSplit =>
    intro a old h ha hold
    constructor <;> intro hm
    · rw [s.plan.selectInbound_ends _ h ha hm]
      exact ⟨rfl, rfl⟩
    · rw [s.plan.selectInbound_before _ h ha hm, hold]
      exact ⟨rfl, rfl⟩

/-! ### The outbound frame event up to the sending of its frame (R19) -/

theorem changeoverCheck_outside (n : Superframe) (s : State) (x : FrameTiming) (p : LockPort) :
    changeoverCheck n { s with timing := x, tailPort := p } =
      { changeoverCheck n s with timing := x, tailPort := p } := by
  unfold changeoverCheck
  simp only
  split
  · split <;> rfl
  · rfl

theorem refreshCompletion_outside (s : State) (x : FrameTiming) (p : LockPort) :
    refreshCompletion { s with timing := x, tailPort := p } =
      { refreshCompletion s with timing := x, tailPort := p } := by
  unfold refreshCompletion
  simp only
  split <;> rfl

theorem relayBoundary_outside (n : Superframe) (s : State) (x : FrameTiming) (p : LockPort) :
    relayBoundary n { s with timing := x, tailPort := p } =
      { relayBoundary n s with timing := x, tailPort := p } := by
  unfold relayBoundary
  simp only
  split
  · rfl
  · split
    · rfl
    · split <;> rfl

/-- The boundary actions neither read nor move the numbering and the tail-side port. -/
theorem boundaryTaken_outside (n : FrameNo) (s : State) (x : FrameTiming) (p : LockPort) :
    boundaryTaken n { s with timing := x, tailPort := p } =
      { boundaryTaken n s with timing := x, tailPort := p } := by
  unfold boundaryTaken
  split
  · rw [changeoverCheck_outside, refreshCompletion_outside, relayBoundary_outside]
  · rfl

theorem boundaryTaken_frame (n : FrameNo) (s : State) : BoundaryFrame s (boundaryTaken n s) := by
  unfold boundaryTaken
  split
  · exact superframeBoundary_frame n.superframe s
  · exact .refl s

theorem boundaryTaken_timing (n : FrameNo) (s : State) (x : FrameTiming) :
    boundaryTaken n { s with timing := x } = { boundaryTaken n s with timing := x } := by
  have h := boundaryTaken_outside n s x s.tailPort
  obtain ⟨_, _, _, _, _, e⟩ := boundaryTaken_frame n s
  rw [e] at h ⊢
  exact h

theorem boundaryTaken_tailPort (n : FrameNo) (s : State) (p : LockPort) :
    boundaryTaken n { s with tailPort := p } = { boundaryTaken n s with tailPort := p } := by
  have h := boundaryTaken_outside n s s.timing p
  obtain ⟨_, _, _, _, _, e⟩ := boundaryTaken_frame n s
  rw [e] at h ⊢
  exact h

/-- Numbering, boundary actions and converter exchange as one update. -/
theorem outboundArrival_eq (n : FrameNo) (s : State) :
    outboundArrival n s =
      { boundaryTaken n s with
        timing := { s.timing with number := n }
        chan := s.chan.exchange
        wires := { s.wires with converterSent := s.wires.converterSent ++ [.frameStart] } } := by
  have ha : outboundArrival n s =
      (boundaryTaken n { s with timing := { s.timing with number := n } }).exchange := rfl
  obtain ⟨_, _, _, _, _, e⟩ := boundaryTaken_frame n s
  rw [ha, boundaryTaken_timing, e]
  rfl

/-- The outbound plan of a frame of number n: the live bank's, as the boundary actions left it. -/
def outboundPlan (n : FrameNo) (s : State) : Plan :=
  ((boundaryTaken n s).plan.bank (boundaryTaken n s).plan.live).outbound

/-- An outbound frame event up to the sending of its frame: all of it but the inbound frame that may be originated. -/
def outboundSent (f : Frame) (s : State) : State :=
  { boundaryTaken f.number s with
    timing := { s.timing with number := f.number }
    chan := (slotEffects (outboundPlan f.number s) f.slots { s with chan := s.chan.exchange }).chan
    receiver := (assembleChunk f.chunk s).receiver
    notices := { (boundaryTaken f.number s).notices with
      collision :=
        (slotEffects (outboundPlan f.number s) f.slots { s with chan := s.chan.exchange }).notices.collision
      requestDropped := (assembleChunk f.chunk s).notices.requestDropped }
    wires := { s.wires with
      converterSent := s.wires.converterSent ++ [.frameStart]
      tailSent := s.wires.tailSent ++
        [{ f with slots := slotsAfter (outboundPlan f.number s) f.slots s.chan.exchange }] } }

/-- R19: an outbound frame event is its update up to the sending, and the origination. -/
theorem outboundFrameEvent_eq (f : Frame) (s : State) :
    outboundFrameEvent f s = originateInbound f.number (outboundSent f s) := by
  have harr := outboundArrival_eq f.number s
  obtain ⟨hc, hn, hr, hd⟩ := outboundStages_parts f s
  obtain ⟨_, _, _, _, -, -, hst⟩ := outboundStages_frame f s
  have hplan : ((outboundArrival f.number s).plan.bank (outboundArrival f.number s).plan.live).outbound =
      outboundPlan f.number s := by rw [harr]; rfl
  rw [hplan] at hc hn
  rw [outboundFrameEvent_stages, hplan, outboundArrival_chan]
  congr 1
  unfold outboundSent
  rw [← hc, ← hn, ← hr, ← hd, hst, harr]
  rfl

/-- Up to the sending, the event neither reads nor moves the tail-side port. -/
theorem outboundSent_tailPort (f : Frame) (s : State) (p : LockPort) :
    outboundSent f { s with tailPort := p } = { outboundSent f s with tailPort := p } := by
  have hb := boundaryTaken_tailPort f.number s p
  have hplan : outboundPlan f.number { s with tailPort := p } = outboundPlan f.number s := by
    unfold outboundPlan
    rw [hb]
  obtain ⟨hc, hn⟩ := slotEffects_congr (outboundPlan f.number s) f.slots (s := { s with chan := s.chan.exchange })
    (u := { s with chan := s.chan.exchange, tailPort := p }) rfl rfl
  obtain ⟨hr, hd⟩ := assembleChunk_congr f.chunk (s := s) (u := { s with tailPort := p }) rfl rfl rfl
  unfold outboundSent
  rw [hb, hplan, hr, hd]
  simp only
  rw [hc, hn]

@[simp] theorem outboundSent_tailPort_kept (f : Frame) (s : State) : (outboundSent f s).tailPort = s.tailPort := by
  obtain ⟨_, _, _, _, _, e⟩ := boundaryTaken_frame f.number s
  unfold outboundSent
  rw [e]

/-! ### The originated inbound frame (R18) -/

/-- With the tail-side port in LOCKED an outbound frame event ends with the sending of its frame. -/
theorem outboundFrameEvent_locked (f : Frame) (s : State) (h : s.tailPort.lock = .locked) :
    outboundFrameEvent f s = outboundSent f s := by
  rw [outboundFrameEvent_eq, originateInbound, if_pos (by rw [outboundSent_tailPort_kept, h])]

/-- With the tail-side port elsewhere an inbound frame event follows the sending. -/
theorem outboundFrameEvent_unlocked (f : Frame) (s : State) (h : s.tailPort.lock ≠ .locked) :
    outboundFrameEvent f s = inboundFrameEvent (madeFrame f.number false) none (outboundSent f s) := by
  rw [outboundFrameEvent_eq, originateInbound, if_neg (by rwa [outboundSent_tailPort_kept])]
  rfl

/-- What an originated inbound frame leaves of the node: the selection may end SPLIT, vacant slots work the channels,
and the arbiter moves its emission and the inward box. -/
theorem originated_frame (n : FrameNo) (s : State) :
    ∃ chan inbound inward headTx, ChannelsWorked s.chan chan ∧
      inboundFrameEvent (madeFrame n false) none s =
        { s with
          plan := (s.plan.selectInbound n.superframe).2
          chan := chan
          inbound := inbound
          relay := { s.relay with inward := inward }
          wires := { s.wires with headTx := headTx } } := by
  obtain ⟨chan, _, hw, hc⟩ :=
    slotEffects_frame (s.plan.selectInbound n.superframe).1.inbound (madeFrame n false).slots s
  obtain ⟨_, _, _, _, inward, ha⟩ := arbitrate_frame s
  have hv := slotEffects_vacant (s.plan.selectInbound n.superframe).1.inbound s
  refine ⟨chan, (arbitrate s).2.inbound, inward, (inboundFrameEvent (madeFrame n false) none s).wires.headTx, hw, ?_⟩
  rw [inboundFrameEvent_eq]
  simp only [madeFrame, handedOn] at hc hv ⊢
  rw [hv, hc, ha]

/-- Settles O13: up to the sending the event does not see the tail-side port (`outboundSent_tailPort`), and what follows
is the originated frame's event. -/
theorem outboundEventOriginatesInboundFrame : Obligations.OutboundEventOriginatesInboundFrame := by
  unfold Obligations.OutboundEventOriginatesInboundFrame
  intro f s h
  constructor
  · intro p hp
    rw [outboundFrameEvent_unlocked f s h, outboundFrameEvent_locked f _ hp, outboundSent_tailPort f s p,
      ← outboundSent_tailPort_kept f s]
  · rw [outboundFrameEvent_unlocked f s h, inboundFrameEvent_eq]
    exact ⟨_, rfl, rfl, rfl, rfl⟩

/-- Everything that an outbound frame event adds to its update up to the sending: nothing with the tail-side port in
LOCKED, and otherwise what the originated frame does. -/
theorem outboundFrameEvent_frame (f : Frame) (s : State) :
    ∃ plan chan inbound inward headTx, ChannelsWorked (outboundSent f s).chan chan ∧
      outboundFrameEvent f s =
        { outboundSent f s with
          plan := plan
          chan := chan
          inbound := inbound
          relay := { (outboundSent f s).relay with inward := inward }
          wires := { (outboundSent f s).wires with headTx := headTx } } ∧
      (∃ state oldBank, plan = { (outboundSent f s).plan with state := state, oldBank := oldBank }) := by
  by_cases h : s.tailPort.lock = .locked
  · rw [outboundFrameEvent_locked f s h]
    exact ⟨_, _, _, _, _, .refl _, rfl, _, _, rfl⟩
  · rw [outboundFrameEvent_unlocked f s h]
    obtain ⟨chan, inbound, inward, headTx, hw, e⟩ := originated_frame f.number (outboundSent f s)
    exact ⟨_, chan, inbound, inward, headTx, hw, e, PlanStore.selectInbound_frame _ _⟩

/-- The boundary actions leave the rest of the node as it was before the event. -/
theorem outboundSent_frame (f : Frame) (s : State) :
    (outboundSent f s).headPort = s.headPort ∧ (outboundSent f s).headLostSeen = s.headLostSeen ∧
      (outboundSent f s).executor = s.executor ∧ (outboundSent f s).inbound = s.inbound ∧
      (outboundSent f s).port.mask = s.port.mask ∧ (outboundSent f s).port.channelLock = s.port.channelLock := by
  obtain ⟨_, _, _, _, _, e⟩ := boundaryTaken_frame f.number s
  unfold outboundSent
  rw [e]
  exact ⟨rfl, rfl, rfl, rfl, rfl, rfl⟩

/-- A slot engine leaves the converter frame, the samples and the ramps that the exchange made. -/
theorem ChannelsWorked.exchanged_kept {a b : ChannelUnit} (h : ChannelsWorked a b) :
    b.converterFrame = a.converterFrame ∧
      ∀ k : Fin 8, b.inputs[k].sample = a.inputs[k].sample ∧ b.inputs[k].ramp = a.inputs[k].ramp := by
  obtain ⟨inputs, -, frame⟩ := h
  exact ⟨frame, fun k => by rw [inputs k]; exact ⟨rfl, rfl⟩⟩

/-- The channels after an outbound frame is sent are those of the exchange, worked. -/
theorem outboundSent_worked (f : Frame) (s : State) : ChannelsWorked s.chan.exchange (outboundSent f s).chan := by
  obtain ⟨_, _, hw, h⟩ := slotEffects_frame (outboundPlan f.number s) f.slots { s with chan := s.chan.exchange }
  unfold outboundSent
  rw [h]
  exact hw

/-- Settles O12: the event is `outboundSent` field by field, and what is originated leaves those fields alone. -/
theorem outboundEventNumbersAndSends : Obligations.OutboundEventNumbersAndSends := by
  unfold Obligations.OutboundEventNumbersAndSends
  intro f s
  obtain ⟨headPort, headLostSeen, executor, inbound, mask, channelLock⟩ := outboundSent_frame f s
  obtain ⟨_, _, _, _, _, hw, ht, _, _, rfl⟩ := outboundFrameEvent_frame f s
  obtain ⟨converterFrame, samples⟩ := ((outboundSent_worked f s).trans hw).exchanged_kept
  dsimp only
  refine ⟨?_, ?_, ?_, ?_, ?_, ?_, ?_, ?_, ?_, ?_, ?_, ?_, ?_, ?_, ?_, ?locked⟩
  case locked =>
    intro h
    rw [outboundFrameEvent_locked f s h]
    exact ⟨rfl, inbound, rfl⟩
  all_goals rw [ht]
  exacts [rfl, headPort, outboundSent_tailPort_kept f s, headLostSeen, executor, rfl, mask, channelLock, rfl,
    converterFrame, rfl, samples, rfl, rfl, rfl]

/-! ### The boundary actions (R19, stage 2) -/

/-- Settles O14: the event's flags, notices and boxes are those of the boundary actions; the plan store is too, but for
the selection of an originated frame. -/
theorem boundaryActionsAtIndexZeroOnly : Obligations.BoundaryActionsAtIndexZeroOnly := by
  unfold Obligations.BoundaryActionsAtIndexZeroOnly
  intro f s
  obtain ⟨_, _, _, _, _, _, ht, -⟩ := outboundFrameEvent_frame f s
  dsimp only
  refine ⟨by rw [ht]; rfl, by rw [ht]; rfl, by rw [ht]; rfl, by rw [ht]; rfl, by rw [ht]; rfl, ?locked, ?unlocked,
    fun h => if_neg h⟩
  case locked =>
    intro h
    rw [outboundFrameEvent_locked f s h]
    exact ⟨rfl, rfl⟩
  case unlocked =>
    intro h
    have selected : (outboundFrameEvent f s).plan =
        ((boundaryTaken f.number s).plan.selectInbound f.number.superframe).2 := by
      rw [outboundFrameEvent_unlocked f s h, inboundFrameEvent_eq]
      rfl
    rw [selected]
    refine ⟨fun hs => by rw [PlanStore.selectInbound_live _ _ hs], fun a hs ha => ⟨fun hm => ?_, fun hm => ?_⟩⟩
    · rw [PlanStore.selectInbound_ends _ _ hs ha hm]
    · rw [PlanStore.selectInbound_before _ _ hs ha hm]

/-! ### What the ports' lock machines keep (R2, R6 to R8) -/

/-- How an outcome fits the port before and after it: a port that is then in LOCKED expects the successor of the frame
handed on, and a quiet or lost port is not in LOCKED. -/
def PortOutcome.Fits (before after : LockPort) : PortOutcome → Prop
  | .quiet => before.lock ≠ .locked ∧ after.lock ≠ .locked
  | .entered f => after.lock = .locked ∧ after.expected = some f.number.succ
  | .accepted f => before.lock = .locked ∧ after.lock = .locked ∧ after.expected = some f.number.succ
  | .missed n => before.lock = .locked ∧ after.lock = .locked ∧ after.expected = some n.succ
  | .lost _ => after.lock ≠ .locked

/-- A port's move keeps the port consistent, with an outcome that fits. -/
def LockPort.MovesWell (p : LockPort) (move : LockPort × PortOutcome) : Prop :=
  move.1.consistent ∧ move.2.Fits p move.1

theorem LockPort.consistent.stays_quiet {p : LockPort} (h : p.consistent) (hl : p.lock ≠ .locked) :
    p.MovesWell (p, .quiet) :=
  ⟨h, hl, hl⟩

theorem LockPort.consistent.backToSearch {p : LockPort} (h : p.consistent) (hl : p.lock = .confirm) :
    p.MovesWell (p.backToSearch, .quiet) := by
  obtain ⟨-, -, hc, -⟩ := h
  refine ⟨⟨?_, ?_, hc, ?_⟩, ?_, ?_⟩ <;> simp [LockPort.backToSearch, hl]

/-- Outside SEARCH a port expects a number, and its watchdog runs. -/
theorem LockPort.consistent.tracking {p : LockPort} (h : p.consistent) (hl : p.lock ≠ .search) :
    (∃ n, p.expected = some n) ∧ p.watchdog = true := by
  obtain ⟨hexpected, hwatchdog, -, -⟩ := h
  exact ⟨Option.ne_none_iff_exists'.1 (mt hexpected.2 hl), Bool.eq_true_of_not_eq_false (mt hwatchdog.2 hl)⟩

/-- A miss below the fourth leaves the port in LOCKED with the count below 4; the fourth leaves it in SEARCH. -/
theorem LockPort.consistent.miss {p : LockPort} (h : p.consistent) (hl : p.lock = .locked) : p.MovesWell p.miss := by
  obtain ⟨⟨n, hn⟩, hw⟩ := h.tracking (by simp [hl])
  obtain ⟨-, -, -, hcount⟩ := h
  rcases Nat.lt_or_eq_of_le (hcount hl) with hlt | heq
  · rw [p.miss_stays n hn hlt]
    refine ⟨⟨?_, ?_, ?_, ?_⟩, hl, hl, rfl⟩ <;> simp [hl, hw] <;> omega
  · rw [p.miss_loses n hn heq]
    refine ⟨⟨?_, ?_, ?_, ?_⟩, ?_⟩ <;> simp [PortOutcome.Fits]

/-- A port that takes a frame is consistent, in CONFIRM as in LOCKED. -/
theorem LockPort.taken_consistent (p : LockPort) (n : FrameNo) : (portAccepted p n).consistent := by
  refine ⟨?_, ?_, ?_, ?_⟩ <;> simp [portAccepted]

/-- R7, R8: every header moves a consistent port well. -/
theorem LockPort.consistent.header {p : LockPort} (h : p.consistent) (received : Option Frame) :
    p.MovesWell (p.header received) := by
  cases hl : p.lock with
  | search =>
    cases received with
    | none =>
      rw [p.header_hunting_bad hl]
      exact h.stays_quiet (by simp [hl])
    | some f =>
      rw [p.header_hunting_good f hl]
      obtain ⟨-, -, hc, -⟩ := h
      refine ⟨⟨?_, ?_, hc, ?_⟩, ?_, ?_⟩ <;> simp [hl]
  | confirm =>
    obtain ⟨⟨n, hn⟩, -⟩ := h.tracking (by simp [hl])
    by_cases hin : ∃ f, received = some f ∧ f.number = n
    · obtain ⟨f, rfl, rfl⟩ := hin
      rw [(p.header_inSequence f hn).2 hl]
      exact ⟨p.taken_consistent f.number, rfl, rfl⟩
    · rw [p.header_unconfirmed received n hl hn fun f hf hne => hin ⟨f, hf, hne⟩]
      exact h.backToSearch hl
  | locked =>
    obtain ⟨⟨n, hn⟩, -⟩ := h.tracking (by simp [hl])
    by_cases hin : ∃ f, received = some f ∧ f.number = n
    · obtain ⟨f, rfl, rfl⟩ := hin
      have taken := p.taken_consistent f.number
      rw [portAccepted, ← hl] at taken
      rw [(p.header_inSequence f hn).1 hl]
      exact ⟨taken, hl, hl, rfl⟩
    · rw [p.header_miss received n hl hn fun f hf hne => hin ⟨f, hf, hne⟩]
      exact h.miss hl

/-- R6: every running out of a watchdog moves a consistent port well. -/
theorem LockPort.consistent.absent {p : LockPort} (h : p.consistent) : p.MovesWell p.absent := by
  cases hl : p.lock with
  | search =>
    have quiet : p.absent = (p, .quiet) := by simp [LockPort.absent, hl]
    rw [quiet]
    exact h.stays_quiet (by simp [hl])
  | confirm =>
    obtain ⟨-, hw⟩ := h.tracking (by simp [hl])
    rw [(p.absent_running hw).1 hl]
    exact h.backToSearch hl
  | locked =>
    obtain ⟨-, hw⟩ := h.tracking (by simp [hl])
    rw [(p.absent_running hw).2 hl]
    exact h.miss hl

/-! ### What the frame events do to ports and numbering (R3, R4) -/

@[simp] theorem inboundFrameEvent_timing (f : Frame) (received : Option Chunk) (s : State) :
    (inboundFrameEvent f received s).timing = s.timing := by
  rw [inboundFrameEvent_eq]

@[simp] theorem inboundFrameEvent_headPort (f : Frame) (received : Option Chunk) (s : State) :
    (inboundFrameEvent f received s).headPort = s.headPort := by
  rw [inboundFrameEvent_eq]

@[simp] theorem inboundFrameEvent_tailPort (f : Frame) (received : Option Chunk) (s : State) :
    (inboundFrameEvent f received s).tailPort = s.tailPort := by
  rw [inboundFrameEvent_eq]

@[simp] theorem outboundFrameEvent_timing (f : Frame) (s : State) :
    (outboundFrameEvent f s).timing = { s.timing with number := f.number } := by
  obtain ⟨_, _, _, _, _, -, h, -⟩ := outboundFrameEvent_frame f s
  rw [h]
  rfl

@[simp] theorem outboundFrameEvent_headPort (f : Frame) (s : State) :
    (outboundFrameEvent f s).headPort = s.headPort := by
  obtain ⟨_, _, _, _, _, -, h, -⟩ := outboundFrameEvent_frame f s
  rw [h]
  exact (outboundSent_frame f s).1

@[simp] theorem outboundFrameEvent_tailPort (f : Frame) (s : State) :
    (outboundFrameEvent f s).tailPort = s.tailPort := by
  obtain ⟨_, _, _, _, _, -, h, -⟩ := outboundFrameEvent_frame f s
  rw [h]
  exact outboundSent_tailPort_kept f s

/-- A tail-side outcome moves no port and no numbering. -/
theorem tailOutcome_ports (outcome : PortOutcome) (s : State) :
    (tailOutcome outcome s).timing = s.timing ∧ (tailOutcome outcome s).headPort = s.headPort ∧
      (tailOutcome outcome s).tailPort = s.tailPort := by
  cases outcome <;> simp [tailOutcome]

/-- The free-run timer and the numbering follow the head-side port (R3, R4, R11, R12): from a timer that runs exactly
while the port `before` is not in LOCKED, an outcome that fits makes the same agreement with the port after it. -/
theorem headOutcome_portsConsistent (before : LockPort) (outcome : PortOutcome) (s : State)
    (head : before.MovesWell (s.headPort, outcome)) (tail : s.tailPort.consistent)
    (timer : s.timing.freeRun = true ↔ before.lock ≠ .locked) :
    PortsConsistent (headOutcome outcome s) := by
  obtain ⟨hport, fits⟩ := head
  cases outcome with
  | quiet =>
    obtain ⟨hbefore, hafter⟩ := fits
    exact ⟨hport, tail, by simp [headOutcome, timer, hbefore, hafter], fun hl => absurd hl hafter⟩
  | entered f =>
    obtain ⟨hl, he⟩ := fits
    refine ⟨?_, ?_, ?_, ?_⟩ <;> simp_all [headOutcome]
  | accepted f =>
    obtain ⟨hb, hl, he⟩ := fits
    refine ⟨?_, ?_, ?_, ?_⟩ <;> simp_all [headOutcome]
  | missed n =>
    obtain ⟨hb, hl, he⟩ := fits
    refine ⟨?_, ?_, ?_, ?_⟩ <;> simp_all [headOutcome, substituteFrame]
  | lost n =>
    refine ⟨?_, ?_, ?_, ?_⟩ <;> simp_all [headOutcome, PortOutcome.Fits]

/-! ### The commands that touch no port (O55) -/

/-- The ports but their counters, and the numbering with the free-run timer, are the same in both states. -/
def PortsKept (s t : State) : Prop :=
  t.timing = s.timing ∧
    (∃ misses losses, t.headPort = { s.headPort with misses := misses, losses := losses }) ∧
    ∃ misses losses, t.tailPort = { s.tailPort with misses := misses, losses := losses }

theorem PortsKept.of_eq {s t : State} (ht : t.timing = s.timing) (hh : t.headPort = s.headPort)
    (hp : t.tailPort = s.tailPort) : PortsKept s t :=
  ⟨ht, ⟨_, _, hh⟩, _, _, hp⟩

theorem PortsKept.refl (s : State) : PortsKept s s :=
  .of_eq rfl rfl rfl

theorem PortsKept.trans {s t u : State} (h : PortsKept s t) (g : PortsKept t u) : PortsKept s u := by
  obtain ⟨ht, ⟨_, _, hh⟩, _, _, hp⟩ := h
  obtain ⟨gt, ⟨_, _, gh⟩, _, _, gp⟩ := g
  exact ⟨gt.trans ht, ⟨_, _, by rw [gh, hh]⟩, _, _, by rw [gp, hp]⟩

/-- PortsConsistent reads of the state what PortsKept names alone. -/
theorem PortsConsistent.kept {s t : State} (h : PortsConsistent s) (k : PortsKept s t) : PortsConsistent t := by
  obtain ⟨ht, ⟨_, _, hh⟩, _, _, hp⟩ := k
  unfold PortsConsistent
  rw [ht, hh, hp]
  exact h

theorem nodeResetState_portsKept (s : State) : PortsKept s (nodeResetState s) :=
  ⟨rfl, ⟨_, _, rfl⟩, _, _, rfl⟩

theorem relayBoundary_portsKept (n : Superframe) (s : State) : PortsKept s (relayBoundary n s) := by
  obtain ⟨_, _, _, _, _, h⟩ := relayBoundary_frame n s
  rw [h]
  exact .of_eq rfl rfl rfl

theorem emissionReport_portsKept (c : Chunk) (s : State) : PortsKept s (emissionReport c s) := by
  obtain ⟨_, _, _, h⟩ | ⟨-, _, h⟩ := emissionReport_cases c s <;> rw [h]
  · exact .of_eq rfl rfl rfl
  · exact nodeResetState_portsKept _

theorem sentReport_portsKept (s : State) : PortsKept s (sentReport s) := by
  unfold sentReport
  split
  · exact .refl s
  · exact .trans (.of_eq rfl rfl rfl) (emissionReport_portsKept _ _)

theorem buildNotice_portsKept (s : State) : PortsKept s (buildNotice s) := by
  unfold buildNotice
  split <;> exact .of_eq rfl rfl rfl

theorem queueRelayIn_portsKept (s : State) : PortsKept s (queueRelayIn s) := by
  unfold queueRelayIn
  split
  · split <;> exact .of_eq rfl rfl rfl
  · exact .refl s

theorem answer_portsKept (source : Byte) (r : Request) (status : Status) (data : List Byte) (s : State) :
    PortsKept s (answer source r status data s) := by
  obtain ⟨-, h⟩ | ⟨-, _, -, h⟩ := answer_cases source r status data s <;> rw [h]
  · exact .refl s
  · exact .of_eq rfl rfl rfl

theorem OwnFrame.portsKept {r : Request} {s t : State} (h : OwnFrame r s t) : PortsKept s t := by
  obtain ⟨_, _, _, _, _, _, _, _, _, _, _, _, _, _, rfl, -⟩ := h
  exact ⟨rfl, ⟨_, _, rfl⟩, _, _, rfl⟩

/-- Executing a request of any kind clears port counters at most. -/
theorem execute_portsKept (k : RequestKind) {r : Request} (hk : readKind r.kind = some k) (s : State) :
    PortsKept s (execute k k.own r s) := by
  obtain ⟨_, h⟩ | ⟨_, _, hg, ho, h⟩ := execute_cases k k.own r s <;> rw [h]
  · exact answer_portsKept ..
  · exact (own_frame k hk hg ho).portsKept.trans (answer_portsKept ..)

theorem executeResetNode_portsKept (r : Request) (s : State) : PortsKept s (executeResetNode r s) := by
  unfold executeResetNode
  split
  · exact answer_portsKept ..
  · exact nodeResetState_portsKept s
  · unfold placeReply
    simp only
    split <;> exact .of_eq rfl rfl rfl

theorem answerFromStore_portsKept (r : Request) (s : State) : PortsKept s (answerFromStore r s) := by
  unfold answerFromStore
  split <;> exact .of_eq rfl rfl rfl

/-- Taking a request keeps the ports if dealing with it does. -/
theorem takeOldest_portsKept {row : Request → Bool} {deal : Request → State → State} {s : State}
    (h : ∀ r t, row r = true → PortsKept t (deal r t)) : PortsKept s (takeOldest row deal s) := by
  obtain e | ⟨-, e⟩ | ⟨r, rest, -, -, hr, -, e⟩ := takeOldest_cases row deal s <;> rw [e]
  · exact .refl s
  · exact .of_eq rfl rfl rfl
  · exact .trans (.of_eq rfl rfl rfl) (h r (s.removed rest) hr)

theorem takeKind_portsKept (k : RequestKind) (s : State) : PortsKept s (takeKind k k.own s) := by
  refine takeOldest_portsKept fun r t hr => execute_portsKept k ?_ t
  unfold rowOfKind at hr
  simp only [Bool.and_eq_true, beq_iff_eq] at hr
  exact hr.1

/-- A stretch of a transaction keeps the ports if the command's own effect does. -/
theorem localTransfer_portsKept {row : Option LocalCommand} {effect : List Byte → State → State × List Byte}
    (he : ∀ a t, PortsKept t (effect a t).1) (bytes : List Byte) (edges : LselEdges) (s : State) :
    PortsKept s (localTransfer row effect bytes edges s) :=
  localTransfer_keeps (fun _ _ h => h.trans (.of_eq rfl rfl rfl)) (fun _ _ h => h.trans (.of_eq rfl rfl rfl))
    (fun a t _ h => h.trans (he a t)) bytes edges (.refl s)

theorem localReadOutward_portsKept (a : List Byte) (s : State) : PortsKept s (localReadOutward a s).1 := by
  unfold localReadOutward
  split <;> exact .of_eq rfl rfl rfl

theorem localPostInward_portsKept (a : List Byte) (s : State) : PortsKept s (localPostInward a s).1 := by
  unfold localPostInward
  simp only
  split
  · split <;> exact .of_eq rfl rfl rfl
  · exact .refl s

theorem localWithdrawInward_portsKept (a : List Byte) (s : State) : PortsKept s (localWithdrawInward a s).1 := by
  unfold localWithdrawInward
  split <;> exact .of_eq rfl rfl rfl

/-! ### The trunk commands (O55) -/

/-- R5, R21: after a device reset both ports are in SEARCH and the free-run timer runs. -/
theorem LockPort.reset_consistent : LockPort.reset.consistent := by
  refine ⟨?_, ?_, ?_, ?_⟩ <;> decide

theorem portsConsistent_reset : PortsConsistent State.reset :=
  ⟨LockPort.reset_consistent, LockPort.reset_consistent, by decide, by decide⟩

/-- A header's HEAD_LOST flag moves no port and no numbering. -/
theorem noteHeadLost_ports (received : Option Frame) (s : State) :
    (noteHeadLost received s).timing = s.timing ∧ (noteHeadLost received s).tailPort = s.tailPort := by
  unfold noteHeadLost
  split
  · exact ⟨rfl, rfl⟩
  · split <;> exact ⟨rfl, rfl⟩

theorem headArrival_portsConsistent {s : State} (h : PortsConsistent s) (w : WireFrame) :
    PortsConsistent (headArrival w s) := by
  obtain ⟨head, tail, timer, -⟩ := h
  obtain ⟨timing, tailPort⟩ := noteHeadLost_ports (receivedFrame w) s
  refine headOutcome_portsConsistent s.headPort _ _ (head.header (receivedFrame w)) ?_ ?_
  · rwa [tailPort]
  · rwa [timing]

/-- A tail-side outcome agrees with every consistent tail-side port. -/
theorem tailOutcome_portsConsistent {s : State} (h : PortsConsistent s) {move : LockPort × PortOutcome}
    (tail : s.tailPort.MovesWell move) : PortsConsistent (tailOutcome move.2 { s with tailPort := move.1 }) := by
  obtain ⟨head, -, timer, expects⟩ := h
  obtain ⟨port, -⟩ := tail
  obtain ⟨ht, hh, hp⟩ := tailOutcome_ports move.2 { s with tailPort := move.1 }
  unfold PortsConsistent
  rw [ht, hh, hp]
  exact ⟨head, port, timer, expects⟩

theorem tailArrival_portsConsistent {s : State} (h : PortsConsistent s) (w : WireFrame) :
    PortsConsistent (tailArrival w s) := by
  have ⟨_, tail, _⟩ := h
  exact tailOutcome_portsConsistent h (tail.header (receivedFrame w))

theorem watchdogExpiry_portsConsistent {s : State} (h : PortsConsistent s) (port : TrunkPort) :
    PortsConsistent (watchdogExpiry port s) := by
  cases port with
  | headSide =>
    obtain ⟨head, tail, timer, -⟩ := h
    exact headOutcome_portsConsistent s.headPort _ { s with headPort := s.headPort.absent.1 } head.absent tail timer
  | tailSide =>
    have ⟨_, tail, _⟩ := h
    exact tailOutcome_portsConsistent h tail.absent

/-- The free-run timer runs while the head-side port is not in LOCKED, so its frame meets no expected number. -/
theorem freeRunExpiry_portsConsistent {s : State} (h : PortsConsistent s) : PortsConsistent (freeRunExpiry s) := by
  unfold freeRunExpiry
  split
  · rename_i hrun
    obtain ⟨head, tail, timer, -⟩ := h
    refine ⟨?_, ?_, ?_, fun hl => ?_⟩
    · rwa [outboundFrameEvent_headPort]
    · rwa [outboundFrameEvent_tailPort]
    · rwa [outboundFrameEvent_timing, outboundFrameEvent_headPort]
    · rw [outboundFrameEvent_headPort] at hl
      exact absurd hl (timer.1 hrun)
  · exact h

/-- Every command completes and keeps the ports consistent. -/
theorem exec_portsConsistent (c : Instr) {s : State} (h : PortsConsistent s) :
    ∃ t, exec c s = .next t ∧ PortsConsistent t := by
  cases c with
  | deviceReset => exact ⟨_, rfl, portsConsistent_reset⟩
  | headSideHeaderArrival w => exact ⟨_, rfl, headArrival_portsConsistent h w⟩
  | tailSideHeaderArrival w => exact ⟨_, rfl, tailArrival_portsConsistent h w⟩
  | frameWatchdogRunsOut port => exact ⟨_, rfl, watchdogExpiry_portsConsistent h port⟩
  | freeRunTimerRunsOut => exact ⟨_, rfl, freeRunExpiry_portsConsistent h⟩
  | inboundFrameSentReport => exact ⟨_, rfl, h.kept (sentReport_portsKept s)⟩
  | converterWordReceived k w => exact ⟨_, rfl, h.kept (.of_eq rfl rfl rfl)⟩
  | armChangeover => exact ⟨_, rfl, h.kept (takeKind_portsKept .armChangeover s)⟩
  | assign => exact ⟨_, rfl, h.kept (takeKind_portsKept .assign s)⟩
  | cancelChangeover => exact ⟨_, rfl, h.kept (takeKind_portsKept .cancelChangeover s)⟩
  | readChannels => exact ⟨_, rfl, h.kept (takeKind_portsKept .readChannels s)⟩
  | readCounters => exact ⟨_, rfl, h.kept (takeKind_portsKept .readCounters s)⟩
  | readPlan => exact ⟨_, rfl, h.kept (takeKind_portsKept .readPlan s)⟩
  | readStatus => exact ⟨_, rfl, h.kept (takeKind_portsKept .readStatus s)⟩
  | relayOut => exact ⟨_, rfl, h.kept (takeKind_portsKept .relayOut s)⟩
  | release => exact ⟨_, rfl, h.kept (takeKind_portsKept .release s)⟩
  | resetNode => exact ⟨_, rfl, h.kept (takeOldest_portsKept fun r t _ => executeResetNode_portsKept r t)⟩
  | rollCall => exact ⟨_, rfl, h.kept (takeKind_portsKept .rollCall s)⟩
  | writeChannels => exact ⟨_, rfl, h.kept (takeKind_portsKept .writeChannels s)⟩
  | writePlan => exact ⟨_, rfl, h.kept (takeKind_portsKept .writePlan s)⟩
  | writeSettings => exact ⟨_, rfl, h.kept (takeKind_portsKept .writeSettings s)⟩
  | unknownKindRequest => exact ⟨_, rfl, h.kept (takeOldest_portsKept fun _ _ _ => answer_portsKept ..)⟩
  | lastReplyAnswer => exact ⟨_, rfl, h.kept (takeOldest_portsKept fun r t _ => answerFromStore_portsKept r t)⟩
  | nodeReset => exact ⟨_, rfl, h.kept (nodeResetState_portsKept s)⟩
  | noticeBuild => exact ⟨_, rfl, h.kept (buildNotice_portsKept s)⟩
  | relayInQueuing => exact ⟨_, rfl, h.kept (queueRelayIn_portsKept s)⟩
  | relayExpiry => exact ⟨_, rfl, h.kept (relayBoundary_portsKept _ s)⟩
  | status bytes edges => exact ⟨_, rfl, h.kept (localTransfer_portsKept (fun _ t => .refl t) bytes edges s)⟩
  | readOutward bytes edges =>
    exact ⟨_, rfl, h.kept (localTransfer_portsKept localReadOutward_portsKept bytes edges s)⟩
  | postInward bytes edges =>
    exact ⟨_, rfl, h.kept (localTransfer_portsKept localPostInward_portsKept bytes edges s)⟩
  | withdrawInward bytes edges =>
    exact ⟨_, rfl, h.kept (localTransfer_portsKept localWithdrawInward_portsKept bytes edges s)⟩
  | readFlags bytes edges => exact ⟨_, rfl, h.kept (localTransfer_portsKept (fun _ t => .refl t) bytes edges s)⟩
  | clearFlags bytes edges =>
    exact ⟨_, rfl, h.kept (localTransfer_portsKept (fun _ _ => .of_eq rfl rfl rfl) bytes edges s)⟩
  | setMask bytes edges =>
    exact ⟨_, rfl, h.kept (localTransfer_portsKept (fun _ _ => .of_eq rfl rfl rfl) bytes edges s)⟩
  | setLock bytes edges =>
    exact ⟨_, rfl, h.kept (localTransfer_portsKept (fun _ _ => .of_eq rfl rfl rfl) bytes edges s)⟩
  | clearLock bytes edges =>
    exact ⟨_, rfl, h.kept (localTransfer_portsKept (fun _ _ => .of_eq rfl rfl rfl) bytes edges s)⟩
  | unknownCommand bytes edges =>
    exact ⟨_, rfl, h.kept (localTransfer_portsKept (fun _ t => .refl t) bytes edges s)⟩

/-- Settles O55: an empty queue idles, and the front command keeps the ports consistent (`exec_portsConsistent`). -/
theorem stepKeepsPortsConsistent : Obligations.StepKeepsPortsConsistent := by
  unfold Obligations.StepKeepsPortsConsistent
  intro s t h hs
  unfold step at hs
  split at hs
  · cases hs
    exact h
  · rename_i c rest _
    obtain ⟨u, hu, hpu⟩ := exec_portsConsistent c (h.kept (.of_eq rfl rfl rfl : PortsKept s { s with pending := rest }))
    rw [hu] at hs
    cases hs
    exact hpu

/-! ### The state after a device reset (O60) -/

/-- A bank of PASS entries names no output. -/
theorem Bank.reset_lawful : Bank.reset.lawful = true := by
  have names (k : Fin 8) : PlanEntry.reset.namesOutput k = false := rfl
  simp [Bank.lawful, Bank.namings, Bank.reset, names]

theorem planConsistent_reset : PlanConsistent State.reset := by
  refine ⟨?_, ?_, ?_, ?_, Bank.reset_lawful, Bank.reset_lawful⟩ <;> simp [State.reset, PlanStore.reset]

theorem disabledChannelsZero_reset : DisabledChannelsZero State.reset := by
  constructor <;> intro k <;> simp [State.reset, ChannelUnit.reset, InputChannel.reset, OutputChannel.reset]

theorem queuesBounded_reset : QueuesBounded State.reset := by
  refine ⟨?_, ?_, ?_, ?_⟩ <;>
    simp [State.reset, ServiceReceiver.reset, InboundUnit.reset, Executor.reset, State.nonNotices]

theorem numbersInRange_reset : NumbersInRange State.reset := by
  refine ⟨?_, ?_, ?_, ?_, ?_⟩ <;> simp [State.reset, InboundUnit.reset, Executor.reset, RelayUnit.reset]

theorem passBufferConsistent_reset : PassBufferConsistent State.reset := by
  refine ⟨?_, ?_, ?_, ?_, ?_⟩ <;> simp [State.reset, InboundUnit.reset, InboundUnit.sendingOwn]

theorem linksConsistent_reset : LinksConsistent State.reset := by
  refine ⟨?_, ?_, ?_, ?_, ?_⟩ <;>
    simp [State.reset, InboundUnit.reset, RelayUnit.reset, Executor.reset, InboundUnit.linked]

/-- Settles O60, invariant by invariant. -/
theorem resetStateMeetsEveryInvariant : Obligations.ResetStateMeetsEveryInvariant :=
  ⟨portsConsistent_reset, planConsistent_reset, disabledChannelsZero_reset, queuesBounded_reset, numbersInRange_reset,
    passBufferConsistent_reset, linksConsistent_reset⟩

end Sys2Proof.Machine
end

section
/-! PROOFS. The plan store: the changeover record and the output-target law that every step keeps (R36 to R62). -/

namespace Sys2Proof.Machine

open Sys2Proof.Claims

/-! ### What the plan store keeps (O56) -/

/-- PlanConsistent reads the plan store alone. -/
theorem PlanConsistent.of_plan {s t : State} (h : PlanConsistent s) (e : t.plan = s.plan) : PlanConsistent t := by
  unfold PlanConsistent
  rw [e]
  exact h

theorem PlanConsistent.bank_lawful {s : State} (h : PlanConsistent s) (n : BankName) :
    (s.plan.bank n).lawful = true := by
  obtain ⟨-, -, -, -, ha, hb⟩ := h
  cases n
  · exact ha
  · exact hb

/-- Both banks stay lawful when a lawful one takes the place of either. -/
theorem PlanStore.setBank_lawful {p : PlanStore} {b : Bank} (n : BankName) (ha : p.bankA.lawful = true)
    (hb : p.bankB.lawful = true) (h : b.lawful = true) :
    (p.setBank n b).bankA.lawful = true ∧ (p.setBank n b).bankB.lawful = true := by
  cases n
  · exact ⟨h, hb⟩
  · exact ⟨ha, h⟩

/-- Outside ARMED no target is present. -/
theorem PlanConsistent.target_none {s : State} (h : PlanConsistent s) (hs : s.plan.state ≠ .armed) :
    s.plan.target = none := by
  obtain ⟨ht, -⟩ := h
  exact Option.not_isSome_iff_eq_none.1 (mt ht.1 hs)

/-- R51: the old bank of a firing is the draft of the live selector that it moved. -/
theorem PlanConsistent.fired {s t : State} (h : PlanConsistent s) (n target : Superframe)
    (e : t.plan = s.plan.fired n target) : PlanConsistent t := by
  obtain ⟨-, -, -, -, ha, hb⟩ := h
  unfold PlanConsistent
  rw [e]
  refine ⟨?_, ?_, ?_, ?_, ha, hb⟩ <;> simp [PlanStore.fired, PlanStore.draft]

theorem PlanConsistent.changeover {s : State} (h : PlanConsistent s) (n : Superframe) :
    PlanConsistent (changeoverCheck n s) := by
  obtain e | ⟨target, -, -, -, e⟩ := changeoverCheck_cases n s <;> rw [e]
  · exact h
  · exact h.fired n target rfl

/-- R58: the copy of a lawful live bank is lawful. -/
theorem PlanConsistent.refresh {s : State} (h : PlanConsistent s) : PlanConsistent (refreshCompletion s) := by
  obtain e | ⟨hs, e⟩ := refreshCompletion_cases s <;> rw [e]
  · exact h
  · have noTarget := h.target_none (by simp [hs])
    have live := h.bank_lawful s.plan.live
    obtain ⟨-, -, noOld, -, ha, hb⟩ := h
    obtain ⟨ha', hb'⟩ := PlanStore.setBank_lawful s.plan.draft ha hb live
    refine ⟨?_, ?_, ?_, ?_, ha', hb'⟩ <;> simp [noTarget, noOld, hs]

/-- R54, R57: the end of SPLIT takes the old bank away and keeps the applied superframe. -/
theorem PlanConsistent.select {s : State} (h : PlanConsistent s) (m : Superframe) :
    PlanConsistent { s with plan := (s.plan.selectInbound m).2 } := by
  obtain e | ⟨hs, e⟩ := s.plan.selectInbound_cases m
  · exact h.of_plan e
  · have noTarget := h.target_none (by simp [hs])
    obtain ⟨-, -, -, applied, ha, hb⟩ := h
    rw [e]
    refine ⟨?_, ?_, ?_, fun _ => applied (.inl hs), ha, hb⟩ <;> simp [noTarget]

/-- R109, R115, R119, R133: what the effect of a request can do to the plan store keeps the invariant. -/
theorem PlanConsistent.worked {s t : State} (h : PlanConsistent s) (w : PlanWorked s.plan t.plan) :
    PlanConsistent t := by
  have noTarget := h.target_none
  have ⟨record, split, noOld, applied, ha, hb⟩ := h
  obtain e | ⟨hs, target, e⟩ | ⟨hs, e⟩ | ⟨hs, b, hl, e⟩ | e := w <;> unfold PlanConsistent <;> rw [e]
  · exact h
  · have armable : s.plan.state ≠ .split := by rcases hs with hs | hs <;> simp [hs]
    refine ⟨?_, ?_, ?_, ?_, ha, hb⟩ <;> simp [noOld armable]
  · refine ⟨?_, ?_, ?_, ?_, ha, hb⟩ <;> simp [noOld, hs]
  · obtain ⟨ha', hb'⟩ := PlanStore.setBank_lawful s.plan.draft ha hb hl
    refine ⟨?_, ?_, ?_, ?_, ha', hb'⟩ <;> simp [noOld, noTarget, hs]
  · exact ⟨record, split, noOld, applied, ha, hb⟩

theorem OwnFrame.plan_worked {r : Request} {s t : State} (h : OwnFrame r s t) : PlanWorked s.plan t.plan := by
  obtain ⟨_, _, _, _, _, _, _, _, _, _, _, _, _, _, rfl, worked, -⟩ := h
  exact worked

/-! ### The operations that leave the plan store alone -/

@[simp] theorem relayBoundary_plan (n : Superframe) (s : State) : (relayBoundary n s).plan = s.plan := by
  obtain e | ⟨_, _, _, _, _, e⟩ | ⟨_, _, _, _, _, e⟩ := relayBoundary_cases n s <;> rw [e]
  rfl

@[simp] theorem slotEffects_plan (plan : Plan) (slots : Slots) (s : State) :
    (slotEffects plan slots s).plan = s.plan := by
  obtain ⟨_, _, -, e⟩ := slotEffects_frame plan slots s
  rw [e]

@[simp] theorem assembleChunk_plan (c : Chunk) (s : State) : (assembleChunk c s).plan = s.plan := by
  obtain ⟨_, _, e, -⟩ := assembleChunk_frame c s
  rw [e]

@[simp] theorem inboundReceive_plan (c : Chunk) (s : State) : (inboundReceive c s).plan = s.plan := by
  obtain ⟨_, _, _, _, _, _, e⟩ := inboundReceive_frame c s
  rw [e]

@[simp] theorem arbitrate_plan (s : State) : (arbitrate s).2.plan = s.plan := by
  obtain ⟨_, _, _, _, _, e⟩ := arbitrate_frame s
  rw [e]

@[simp] theorem buildNotice_plan (s : State) : (buildNotice s).plan = s.plan := by
  unfold buildNotice
  split <;> rfl

@[simp] theorem queueRelayIn_plan (s : State) : (queueRelayIn s).plan = s.plan := by
  unfold queueRelayIn
  split
  · split <;> rfl
  · rfl

@[simp] theorem localReadOutward_plan (a : List Byte) (s : State) : (localReadOutward a s).1.plan = s.plan := by
  unfold localReadOutward
  split <;> rfl

@[simp] theorem localWithdrawInward_plan (a : List Byte) (s : State) :
    (localWithdrawInward a s).1.plan = s.plan := by
  unfold localWithdrawInward
  split <;> rfl

@[simp] theorem placeReply_plan (r : Request) (reply : Message) (link : OutLink) (s : State) :
    (placeReply r reply link s).plan = s.plan := by
  unfold placeReply
  simp only
  split <;> rfl

@[simp] theorem answer_plan (source : Byte) (r : Request) (status : Status) (data : List Byte) (s : State) :
    (answer source r status data s).plan = s.plan := by
  unfold answer
  split
  · exact placeReply_plan ..
  · rfl

@[simp] theorem answerFromStore_plan (r : Request) (s : State) : (answerFromStore r s).plan = s.plan := by
  unfold answerFromStore
  split <;> rfl

/-! ### The commands (O56) -/

/-- R45, R62: a node reset sets the plan store as a device reset does. -/
theorem nodeResetState_planConsistent (s : State) : PlanConsistent (nodeResetState s) :=
  planConsistent_reset.of_plan rfl

theorem PlanConsistent.report {s : State} (h : PlanConsistent s) (c : Chunk) :
    PlanConsistent (emissionReport c s) := by
  obtain ⟨_, _, _, e⟩ | ⟨-, _, e⟩ := emissionReport_cases c s <;> rw [e]
  · exact h
  · exact nodeResetState_planConsistent _

/-- A refusal leaves the plan store alone, and an effect works it as PlanWorked says. -/
theorem execute_planConsistent {s : State} (h : PlanConsistent s) (k : RequestKind) {r : Request}
    (hk : readKind r.kind = some k) : PlanConsistent (execute k k.own r s) := by
  obtain ⟨_, e⟩ | ⟨t, _, hg, ho, e⟩ := execute_cases k k.own r s <;> rw [e]
  · exact h.of_plan (answer_plan ..)
  · exact (h.worked (own_frame k hk hg ho).plan_worked).of_plan (answer_plan ..)

theorem executeResetNode_planConsistent {s : State} (h : PlanConsistent s) (r : Request) :
    PlanConsistent (executeResetNode r s) := by
  unfold executeResetNode
  split
  · exact h.of_plan (answer_plan ..)
  · exact nodeResetState_planConsistent s
  · exact h.of_plan (placeReply_plan ..)

/-- Every operation that the commands are made of keeps the invariant; the plan store is worked by the resets, the
changeover check, the refresh completion, the selection of a bank and the requests alone. -/
theorem planConsistent_keptByOperations : KeptByOperations PlanConsistent where
  outside _ _ _ _ _ _ _ _ h := h
  deviceReset _ _ := planConsistent_reset.of_plan rfl
  nodeReset s _ := nodeResetState_planConsistent s
  changeover n _ h := h.changeover n
  refresh _ h := h.refresh
  relayBoundary n s h := h.of_plan (relayBoundary_plan n s)
  exchange _ h := h
  slots plan slots s h := h.of_plan (slotEffects_plan plan slots s)
  assemble c s h := h.of_plan (assembleChunk_plan c s)
  select m _ h := h.select m
  receive c s h := h.of_plan (inboundReceive_plan c s)
  arbitrate s h := h.of_plan (arbitrate_plan s)
  tailMiss _ h := h
  word _ _ _ h := h
  report c _ h := h.report c
  notice s h := h.of_plan (buildNotice_plan s)
  relayIn s h := h.of_plan (queueRelayIn_plan s)
  readOutward s h := h.of_plan (localReadOutward_plan [] s)
  postInward _ _ h _ _ _ := h
  withdrawInward s h := h.of_plan (localWithdrawInward_plan [] s)
  waiting _ h _ := h
  request k s _ rest h _ hk _ := execute_planConsistent (s := s.removed rest) h k hk
  resetNode s r rest h _ := executeResetNode_planConsistent (s := s.removed rest) h r
  unknownKind s _ rest h _ := PlanConsistent.of_plan (s := s.removed rest) h (answer_plan ..)
  stored s r rest h _ _ := PlanConsistent.of_plan (s := s.removed rest) h (answerFromStore_plan r _)

/-- Settles O56, by the induction over the operations (`KeptByOperations.step`). -/
theorem stepKeepsPlanConsistent : Obligations.StepKeepsPlanConsistent := by
  unfold Obligations.StepKeepsPlanConsistent
  intro s t h hs
  exact planConsistent_keptByOperations.step (fun _ _ g => g) h hs

end Sys2Proof.Machine
end

section
/-! PROOFS. Slot processing: what the entries leave in their slots, the outputs they drive, the yields they count, and
the order in which they are taken (R22 to R35). -/

namespace Sys2Proof.Machine

open Sys2Proof.Claims

/-! ### What an entry leaves in its slot (R25 to R31) -/

theorem slotsAfter_getElem (plan : Plan) (slots : Slots) (ch : ChannelUnit) (j : Fin 32) :
    (slotsAfter plan slots ch)[j] = slotAfter ch plan[j] slots[j] := by
  simp [slotsAfter]

/-- Settles O16, action by action. -/
theorem slotActionsLeaveSlots : Obligations.SlotActionsLeaveSlots := by
  unfold Obligations.SlotActionsLeaveSlots
  intro plan slots ch j
  dsimp only
  rw [slotsAfter_getElem]
  unfold slotAfter
  cases plan[j].action with
  | pass => simp
  | copy => simp
  | take => simp +contextual
  | fill => cases slots[j] <;> simp +contextual
  | force => simp +contextual

/-! ### The outputs that a frame drives (R26, R27, R31) -/

/-- Slot processing drives an output from the slots of the entries that name it, in their order. -/
theorem slotFold_output (plan : Plan) (slots : Slots) (order : List (Fin 32)) (s : State) (k : Fin 8) :
    (order.foldl (fun t j => slotEffect plan[j] slots[j] t) s).chan.outputs[k] =
      (order.filter fun j => plan[j].namesOutput k).foldl (fun c j => c.driven slots[j]) s.chan.outputs[k] := by
  induction order generalizing s with
  | nil => rfl
  | cons j js ih =>
    rw [List.foldl_cons, ih, slotEffect_output, List.filter_cons]
    split <;> rfl

theorem slotEffects_output_unnamed (plan : Plan) (slots : Slots) (s : State) (k : Fin 8)
    (h : ∀ j : Fin 32, plan[j].namesOutput k = false) :
    (slotEffects plan slots s).chan.outputs[k] = s.chan.outputs[k] := by
  have named : ((List.finRange 32).filter fun j => plan[j].namesOutput k) = [] :=
    List.filter_eq_nil_iff.2 fun j _ => by rw [h j]; exact Bool.false_ne_true
  rw [slotEffects, slotFold_output, named, List.foldl_nil]

/-- R40: the one entry that names an output drives it. -/
theorem slotEffects_output_of_one (plan : Plan) (slots : Slots) (s : State) (k : Fin 8) (j : Fin 32)
    (hj : plan[j].namesOutput k = true) (h : ∀ i : Fin 32, i ≠ j → plan[i].namesOutput k = false) :
    (slotEffects plan slots s).chan.outputs[k] = s.chan.outputs[k].driven slots[j] := by
  have alone : (fun i : Fin 32 => plan[i].namesOutput k) = fun i => i == j := by
    funext i
    by_cases e : i = j
    · rw [e, hj, beq_self_eq_true]
    · rw [h i e, beq_false_of_ne e]
  have named : ((List.finRange 32).filter fun i => plan[i].namesOutput k) = [j] := by
    rw [alone, List.filter_beq, List.count_eq_one_of_mem (List.nodup_finRange 32) (List.mem_finRange j)]
    rfl
  rw [slotEffects, slotFold_output, named]
  rfl

/-- Settles O17: the output is driven by the entries that name it (`slotFold_output`), which are none or the one. -/
theorem outputDrivenByItsOneEntry : Obligations.OutputDrivenByItsOneEntry := by
  unfold Obligations.OutputDrivenByItsOneEntry
  intro plan slots s k
  refine ⟨slotEffects_output_unnamed plan slots s k, fun j hj h => ?_⟩
  rw [slotEffects_output_of_one plan slots s k j hj h]
  obtain ⟨-, -, disabled⟩ := OutputChannel.driven_settings s.chan.outputs[k] slots[j]
  refine ⟨disabled, fun v he hv => ?_, fun he hv => ?_⟩ <;>
    rw [hv, OutputChannel.driven, if_pos he]

/-! ### The yields that a frame counts (R28, R30, R32, R33) -/

/-- The entry at a position is a FILL of input k that finds its slot occupied. -/
def yieldsAt (plan : Plan) (slots : Slots) (k : Fin 8) (j : Fin 32) : Bool :=
  plan[j].action == .fill && plan[j].channel == k && slots[j].isSome

theorem yieldsAt_iff (plan : Plan) (slots : Slots) (k : Fin 8) (j : Fin 32) :
    yieldsAt plan slots k j = true ↔
      plan[j].action = .fill ∧ plan[j].channel = k ∧ slots[j].isSome = true := by
  simp [yieldsAt, and_assoc]

/-- An enabled input counts its yields. -/
theorem slotFold_input_enabled (plan : Plan) (slots : Slots) (order : List (Fin 32)) (s : State) (k : Fin 8)
    (h : s.chan.inputs[k].enabled = true) :
    (order.foldl (fun t j => slotEffect plan[j] slots[j] t) s).chan.inputs[k] =
      { s.chan.inputs[k] with
        collisions := countedTimes (order.countP (yieldsAt plan slots k)) s.chan.inputs[k].collisions } := by
  induction order generalizing s with
  | nil => rfl
  | cons j js ih =>
    rw [List.foldl_cons, ih _ (by rw [slotEffect_enabled, h]), slotEffect_input, List.countP_cons]
    by_cases hy : yieldsAt plan slots k j = true
    · obtain ⟨ha, hc, ho⟩ := (yieldsAt_iff plan slots k j).1 hy
      rw [if_pos ⟨ha, hc, h, ho⟩, if_pos hy]
      rfl
    · rw [if_neg fun ⟨ha, hc, _, ho⟩ => hy ((yieldsAt_iff plan slots k j).2 ⟨ha, hc, ho⟩), if_neg hy]
      rfl

/-- A disabled input is left alone. -/
theorem slotFold_input_disabled (plan : Plan) (slots : Slots) (order : List (Fin 32)) (s : State) (k : Fin 8)
    (h : s.chan.inputs[k].enabled = false) :
    (order.foldl (fun t j => slotEffect plan[j] slots[j] t) s).chan.inputs[k] = s.chan.inputs[k] := by
  refine slotFold_induct plan slots (P := fun t => t.chan.inputs[k] = s.chan.inputs[k]) (fun j t ht => ?_) order s rfl
  rw [slotEffect_input, if_neg, ht]
  rintro ⟨-, -, he, -⟩
  rw [ht, h] at he
  cases he

/-- The bit that a yield of input c adds to the detail is that of c. -/
theorem collisionBit_getLsbD (c k : Fin 8) : ((1#8 <<< c.val : Byte).getLsbD k.val) = true ↔ c = k := by
  decide +revert

/-- An entry puts an input into the COLLISION detail exactly when it yields. -/
theorem slotEffect_collision_bit (plan : Plan) (slots : Slots) (j : Fin 32) (s : State) (k : Fin 8) :
    ((slotEffect plan[j] slots[j] s).notices.collision.getD 0).getLsbD k.val = true ↔
      (s.notices.collision.getD 0).getLsbD k.val = true ∨
        (s.chan.inputs[k].enabled = true ∧ yieldsAt plan slots k j = true) := by
  rw [slotEffect_collision, yieldsAt_iff]
  split
  · rename_i hy
    obtain ⟨ha, he, ho⟩ := hy
    rw [Option.getD_some, BitVec.getLsbD_or, Bool.or_eq_true, collisionBit_getLsbD]
    constructor
    · rintro (h | rfl)
      · exact .inl h
      · exact .inr ⟨he, ha, rfl, ho⟩
    · rintro (h | ⟨-, -, h, -⟩)
      · exact .inl h
      · exact .inr h
  · rename_i hn
    constructor
    · exact .inl
    · rintro (h | ⟨he, ha, rfl, ho⟩)
      · exact h
      · exact absurd ⟨ha, he, ho⟩ hn

theorem slotFold_collision_bit (plan : Plan) (slots : Slots) (order : List (Fin 32)) (s : State) (k : Fin 8) :
    ((order.foldl (fun t j => slotEffect plan[j] slots[j] t) s).notices.collision.getD 0).getLsbD k.val = true ↔
      (s.notices.collision.getD 0).getLsbD k.val = true ∨
        (s.chan.inputs[k].enabled = true ∧ 0 < order.countP (yieldsAt plan slots k)) := by
  induction order generalizing s with
  | nil => simp
  | cons j js ih =>
    rw [List.foldl_cons, ih, slotEffect_collision_bit, slotEffect_enabled, or_assoc, ← and_or_left,
      List.countP_pos_iff, List.countP_pos_iff]
    simp only [List.mem_cons, exists_eq_or_imp]

/-- What slot processing leaves of the node, as one update by its own results. -/
theorem slotFold_eq (plan : Plan) (slots : Slots) (order : List (Fin 32)) (s : State) :
    let t := order.foldl (fun t j => slotEffect plan[j] slots[j] t) s
    t = { s with
      chan := { s.chan with inputs := t.chan.inputs, outputs := t.chan.outputs }
      notices := { s.notices with collision := t.notices.collision } } := by
  obtain ⟨chan, collision, ⟨-, -, converterFrame⟩, e⟩ := slotFold_frame plan slots order s
  rw [e]
  cases chan
  cases converterFrame
  rfl

/-- Settles O18: inputs and COLLISION detail entry by entry, and the frame of the slot engine (`slotEffects_frame`). -/
theorem yieldsAreCountedAndReported : Obligations.YieldsAreCountedAndReported := by
  unfold Obligations.YieldsAreCountedAndReported
  intro plan slots s
  exact ⟨slotFold_input_enabled plan slots _ s, slotFold_input_disabled plan slots _ s,
    slotFold_collision_bit plan slots _ s, slotFold_eq plan slots _ s⟩

/-! ### The order of the entries (R34) -/

/-- Two yields join the COLLISION detail in either order. -/
theorem collision_or_swap (d a b : Byte) : d ||| a ||| b = d ||| b ||| a := by
  rw [BitVec.or_assoc, BitVec.or_comm a, ← BitVec.or_assoc]

/-- A collision counter counts two yields in either order, and what an entry asks of an input the other does not
change. -/
theorem slotEffect_input_swap (e f : PlanEntry) (x y : Slot) (s : State) (k : Fin 8) :
    (slotEffect e x (slotEffect f y s)).chan.inputs[k] = (slotEffect f y (slotEffect e x s)).chan.inputs[k] := by
  rw [slotEffect_input, slotEffect_input, slotEffect_input, slotEffect_input]
  split_ifs <;> simp_all

/-- Entries that share no output drive the outputs in either order. -/
theorem slotEffect_output_swap {e f : PlanEntry} (x y : Slot) (s : State) (k : Fin 8)
    (h : e.namesOutput k = true → f.namesOutput k = false) :
    (slotEffect e x (slotEffect f y s)).chan.outputs[k] = (slotEffect f y (slotEffect e x s)).chan.outputs[k] := by
  rw [slotEffect_output, slotEffect_output, slotEffect_output, slotEffect_output]
  split_ifs <;> simp_all

theorem slotEffect_collision_swap (e f : PlanEntry) (x y : Slot) (s : State) :
    (slotEffect e x (slotEffect f y s)).notices.collision = (slotEffect f y (slotEffect e x s)).notices.collision := by
  simp only [slotEffect_collision, slotEffect_enabled]
  split_ifs
  · rw [Option.getD_some, Option.getD_some, collision_or_swap]
  all_goals rfl

/-- R34: entries that share no output can be taken in either order. -/
theorem slotEffect_swap {e f : PlanEntry} (x y : Slot) (s : State)
    (h : ∀ k, e.namesOutput k = true → f.namesOutput k = false) :
    slotEffect e x (slotEffect f y s) = slotEffect f y (slotEffect e x s) := by
  have inputs : (slotEffect e x (slotEffect f y s)).chan.inputs = (slotEffect f y (slotEffect e x s)).chan.inputs :=
    Vector.ext fun k hk => slotEffect_input_swap e f x y s ⟨k, hk⟩
  have outputs : (slotEffect e x (slotEffect f y s)).chan.outputs = (slotEffect f y (slotEffect e x s)).chan.outputs :=
    Vector.ext fun k hk => slotEffect_output_swap x y s ⟨k, hk⟩ (h ⟨k, hk⟩)
  rw [slotEffect_frame e x (slotEffect f y s), slotEffect_frame f y (slotEffect e x s), inputs, outputs,
    slotEffect_collision_swap, slotEffect_frame e x s, slotEffect_frame f y s]

/-- Settles O19: two entries of a lawful plan can be taken in either order (`slotEffect_swap`), so every permutation of
them comes to the same. -/
theorem slotOrderDoesNotMatter : Obligations.SlotOrderDoesNotMatter := by
  unfold Obligations.SlotOrderDoesNotMatter
  intro plan slots s order perm lawful
  refine perm.foldl_eq' (fun i _ j _ t => ?_) s
  by_cases e : i = j
  · rw [e]
  · refine slotEffect_swap _ _ t fun k hj => ?_
    exact Bool.eq_false_of_not_eq_true fun hi => e (lawful k i j hi hj)

end Sys2Proof.Machine
end

section
/-! PROOFS. What is built by the layouts of Chapter 11 reads back as itself (R188 to R192). -/

namespace Sys2Proof.Machine

open Sys2Proof.Claims

/-! ### Fields of several bytes -/

theorem readThree_bytes (x : BitVec 24) :
    readThree (x.extractLsb' 16 8) (x.extractLsb' 8 8) (x.extractLsb' 0 8) = x := by
  rw [readThree, BitVec.extractLsb'_append_extractLsb'_eq_extractLsb' (show 16 = 8 + 8 from rfl),
    BitVec.extractLsb'_append_extractLsb'_eq_extractLsb' (show 8 = 0 + 8 from rfl), BitVec.extractLsb'_eq_self]

/-! ### The bytes of a frame (R1, R23, R188 to R190) -/

theorem Frame.toWire_getElem (f : Frame) (i : Nat) (h : i < 144) : f.toWire[i] = frameByte f i := by
  simp [Frame.toWire]

theorem slotWord_length (x : Slot) : (slotWord x).length = 4 := by
  cases x <;> rfl

/-- Byte i of the slot word of slot j. -/
theorem frameByte_slot (f : Frame) (j : Fin 32) (i : Nat) (h : i < 4) :
    frameByte f (16 + 4 * j.val + i) = byteAt (slotWord f.slots[j]) i := by
  have slot : (16 + 4 * j.val + i - 16) / 4 = j.val := by omega
  have byte : (16 + 4 * j.val + i - 16) % 4 = i := by omega
  rw [frameByte, if_neg (by omega), if_neg (by omega), slot, byte]
  simp

/-- R190: the four bytes of a slot on the line are its slot word. -/
theorem Frame.toWire_slot (f : Frame) (j : Fin 32) :
    (f.toWire.toList.drop (16 + 4 * j.val)).take 4 = slotWord f.slots[j] := by
  have hj := j.isLt
  have length : ((f.toWire.toList.drop (16 + 4 * j.val)).take 4).length = 4 := by simp; omega
  refine List.ext_getElem (by rw [length, slotWord_length]) fun i hi hi' => ?_
  rw [length] at hi
  rw [List.getElem_take, List.getElem_drop, Vector.getElem_toList, f.toWire_getElem, frameByte_slot f j i hi, byteAt,
    List.getD_eq_getElem _ _ hi']

/-- R22, R190: a slot reads back from its slot word. -/
theorem readSlot_slotWord (x : Slot) :
    readSlot (byteAt (slotWord x) 0) (byteAt (slotWord x) 1) (byteAt (slotWord x) 2) (byteAt (slotWord x) 3) = x := by
  cases x with
  | none => rfl
  | some v => simp [slotWord, readSlot, threeBytes, byteAt, readThree_bytes]

theorem Frame.toWire_header (f : Frame) (i : Nat) (h : i < 6) : f.toWire[i] = byteAt (headerBody f) i := by
  rw [f.toWire_getElem i (by omega), frameByte, if_pos (by omega), byteAt, byteAt,
    List.getD_append _ _ _ _ (show i < (headerBody f).length from h)]

theorem Frame.toWire_check (f : Frame) : f.toWire[6] = headerCheck (headerBody f) := by
  rw [f.toWire_getElem 6 (by decide), frameByte, if_pos (by decide), byteAt, List.getD_append_right _ _ _ _ (le_refl 6),
    show 6 - (headerBody f).length = 0 from rfl, List.getD_cons_zero]

theorem Frame.toWire_tag (f : Frame) : f.toWire[7] = f.chunk.tag := by
  rw [f.toWire_getElem 7 (by decide)]
  rfl

theorem Frame.toWire_content (f : Frame) (j : Fin 8) : f.toWire[8 + j.val] = f.chunk.content[j] := by
  have byte : 8 + j.val - 7 = j.val + 1 := by omega
  rw [f.toWire_getElem _ (by omega), frameByte, if_neg (by omega), if_pos (by omega), byte]
  simp [byteAt]

theorem Frame.toWire_slotByte (f : Frame) (j : Fin 32) {i p : Nat} (h : i < 4) (hp : p = 16 + 4 * j.val + i) :
    f.toWire[p] = byteAt (slotWord f.slots[j]) i := by
  subst hp
  rw [f.toWire_getElem _ (by omega), frameByte_slot f j i h]

theorem Frame.readSlot_toWire (f : Frame) (j : Fin 32) :
    readSlot f.toWire[16 + 4 * j.val] f.toWire[17 + 4 * j.val] f.toWire[18 + 4 * j.val] f.toWire[19 + 4 * j.val] =
      f.slots[j] := by
  rw [f.toWire_slotByte j (i := 0) (by decide) (by omega), f.toWire_slotByte j (i := 1) (by decide) (by omega),
    f.toWire_slotByte j (i := 2) (by decide) (by omega), f.toWire_slotByte j (i := 3) (by decide) (by omega),
    readSlot_slotWord]

/-- R1, R189: the check that the node computes makes its header good. -/
theorem goodHeader_toWire (f : Frame) : goodHeader f.toWire = true := by
  rw [goodHeader, f.toWire_header 0 (by decide), f.toWire_header 1 (by decide), f.toWire_header 2 (by decide),
    f.toWire_header 3 (by decide), f.toWire_header 4 (by decide), f.toWire_header 5 (by decide), f.toWire_check]
  simp [headerBody, threeBytes, byteAt]

/-- Byte 5 of the header carries HEAD_LOST, the second flag position and the frame index. -/
theorem headerFlags_fields (f : Frame) :
    (headerFlags f).extractLsb' 0 6 = f.number.index ∧ (headerFlags f).getLsbD 7 = f.headLost ∧
      (headerFlags f).getLsbD 6 = f.spare := by
  unfold headerFlags
  refine ⟨BitVec.extractLsb'_append_eq_right, ?_, ?_⟩ <;> simp only [BitVec.getLsbD_append] <;> simp

/-- R188: the fields of a frame sit on the line where they are read. -/
theorem readFrame_toWire (f : Frame) : readFrame f.toWire = f := by
  obtain ⟨index, headLost, spare⟩ := headerFlags_fields f
  have superframe : readThree f.toWire[2] f.toWire[3] f.toWire[4] = f.number.superframe := by
    rw [f.toWire_header 2 (by decide), f.toWire_header 3 (by decide), f.toWire_header 4 (by decide)]
    simp [headerBody, threeBytes, byteAt, readThree_bytes]
  have flags : f.toWire[5] = headerFlags f := f.toWire_header 5 (by decide)
  have content : (Vector.ofFn fun j : Fin 8 => f.toWire[8 + j.val]) = f.chunk.content := by
    ext1 j hj
    rw [Vector.getElem_ofFn]
    exact f.toWire_content ⟨j, hj⟩
  have slots : (Vector.ofFn fun k : Fin 32 => readSlot f.toWire[16 + 4 * k.val] f.toWire[17 + 4 * k.val]
      f.toWire[18 + 4 * k.val] f.toWire[19 + 4 * k.val]) = f.slots := by
    ext1 k hk
    rw [Vector.getElem_ofFn]
    exact f.readSlot_toWire ⟨k, hk⟩
  unfold readFrame
  rw [superframe, flags, index, headLost, spare, f.toWire_tag, content, slots]

/-- Settles O23: header, chunk and slots read back field by field. -/
theorem frameReadsBackFromTheLine : Obligations.FrameReadsBackFromTheLine := by
  unfold Obligations.FrameReadsBackFromTheLine
  intro f
  refine ⟨?_, fun j => ⟨fun h => ?_, fun v h => ?_⟩⟩
  · rw [receivedFrame, if_pos (goodHeader_toWire f), readFrame_toWire]
  · rw [f.toWire_slot, h]
    rfl
  · rw [f.toWire_slot, h]
    rfl

/-! ### Plan entries (R42, R192) -/

theorem readAction_eq_none (code : BitVec 3) : readAction code = none ↔ 5 ≤ code.toNat := by
  decide +revert

theorem readAction_eq_some (code : BitVec 3) (a : SlotAction) : readAction code = some a ↔ code = a.code := by
  cases a <;> decide +revert

theorem readPlanEntry_eq_none (b : Byte) : readPlanEntry b = none ↔ 5 ≤ (b.extractLsb' 4 3).toNat := by
  rw [readPlanEntry, Option.map_eq_none_iff, readAction_eq_none]

theorem readPlanEntry_eq_some (b : Byte) (e : PlanEntry) :
    readPlanEntry b = some e ↔ b.extractLsb' 4 3 = e.action.code ∧ (b.extractLsb' 0 3).toNat = e.channel.val := by
  rw [readPlanEntry, Option.map_eq_some_iff]
  constructor
  · rintro ⟨a, ha, rfl⟩
    exact ⟨(readAction_eq_some _ a).1 ha, rfl⟩
  · rintro ⟨ha, hc⟩
    exact ⟨e.action, (readAction_eq_some _ _).2 ha, by rw [PlanEntry.mk.injEq]; exact ⟨rfl, Fin.ext hc⟩⟩

/-- R24: the fields of a plan entry byte are those of the entry. -/
theorem PlanEntry.byte_fields (e : PlanEntry) :
    e.byte.extractLsb' 4 3 = e.action.code ∧ (e.byte.extractLsb' 0 3).toNat = e.channel.val := by
  unfold PlanEntry.byte
  constructor
  · rw [BitVec.extractLsb'_append_eq_of_le (by decide), BitVec.extractLsb'_append_eq_of_le (by decide)]
    exact BitVec.extractLsb'_append_eq_right
  · rw [BitVec.extractLsb'_append_eq_right, BitVec.toNat_ofNat]
    exact Nat.mod_eq_of_lt e.channel.isLt

theorem readPlanEntry_byte (e : PlanEntry) : readPlanEntry e.byte = some e :=
  (readPlanEntry_eq_some e.byte e).2 e.byte_fields

/-! ### Channel entries (R63, R66, R192) -/

theorem readSource_eq_none (code : BitVec 2) : readSource code = none ↔ code.toNat = 3 := by
  decide +revert

@[simp] theorem readSource_code (source : InputSource) : readSource source.code = some source := by
  cases source <;> decide

theorem readPolicy_eq_none (code : BitVec 2) : readPolicy code = none ↔ 2 ≤ code.toNat := by
  decide +revert

@[simp] theorem readPolicy_code (policy : VacancyPolicy) : readPolicy policy.code = some policy := by
  cases policy <;> decide

/-- The channel that the low three bits of a table position name. -/
theorem toFin_extractLsb' {b : Byte} {k : Fin 8} (h : b.toNat % 8 = k.val) : (b.extractLsb' 0 3).toFin = k := by
  apply Fin.ext
  rw [← h]
  simp

/-- R63: positions 0 to 7 are inputs. -/
theorem readChannelEntry_input {b0 : Byte} (b1 b2 b3 b4 : Byte) {k : Fin 8} (h : b0.toNat = k.val) :
    readChannelEntry b0 b1 b2 b3 b4 =
      (readSource (b1.extractLsb' 0 2)).map fun source => .input k (b1.getLsbD 7) source (readThree b2 b3 b4) := by
  have named : (b0.extractLsb' 0 3).toFin = k := toFin_extractLsb' (by omega)
  rw [readChannelEntry, if_pos (by omega), named]

/-- R63: positions 8 to 15 are outputs. -/
theorem readChannelEntry_output {b0 : Byte} (b1 b2 b3 b4 : Byte) {k : Fin 8} (h : b0.toNat = k.val + 8) :
    readChannelEntry b0 b1 b2 b3 b4 =
      (readPolicy (b1.extractLsb' 0 2)).map fun policy => .output k (b1.getLsbD 7) policy := by
  have named : (b0.extractLsb' 0 3).toFin = k := toFin_extractLsb' (by omega)
  rw [readChannelEntry, if_neg (by omega), if_pos (by omega), named]

/-- R66: a position of 16 or more names nothing. -/
theorem readChannelEntry_beyond {b0 : Byte} (b1 b2 b3 b4 : Byte) (h : 16 ≤ b0.toNat) :
    readChannelEntry b0 b1 b2 b3 b4 = none := by
  rw [readChannelEntry, if_neg (by omega), if_neg (by omega)]

theorem readChannelEntry_eq_none (b0 b1 b2 b3 b4 : Byte) :
    readChannelEntry b0 b1 b2 b3 b4 = none ↔
      16 ≤ b0.toNat ∨ (b0.toNat < 8 ∧ (b1.extractLsb' 0 2).toNat = 3) ∨
        (8 ≤ b0.toNat ∧ b0.toNat < 16 ∧ 2 ≤ (b1.extractLsb' 0 2).toNat) := by
  rcases Nat.lt_or_ge b0.toNat 8 with input | h8
  · rw [readChannelEntry_input (k := ⟨b0.toNat, input⟩) b1 b2 b3 b4 rfl, Option.map_eq_none_iff, readSource_eq_none]
    omega
  · rcases Nat.lt_or_ge b0.toNat 16 with output | beyond
    · rw [readChannelEntry_output (k := ⟨b0.toNat - 8, by omega⟩) b1 b2 b3 b4 (by simp only; omega),
        Option.map_eq_none_iff, readPolicy_eq_none]
      omega
    · simp [readChannelEntry_beyond b1 b2 b3 b4 beyond, beyond]

/-- Byte 1 of a channel entry carries the enabled bit and the source or policy. -/
theorem channelSettings_fields (enabled : Bool) (code : BitVec 2) :
    (channelSettings enabled code).extractLsb' 0 2 = code ∧ (channelSettings enabled code).getLsbD 7 = enabled := by
  unfold channelSettings
  refine ⟨BitVec.extractLsb'_append_eq_right, ?_⟩
  simp only [BitVec.getLsbD_append]
  simp

theorem byteOf_toNat {n : Nat} (h : n < 256) : (byteOf n).toNat = n := by
  rw [byteOf, BitVec.toNat_ofNat]
  exact Nat.mod_eq_of_lt h

/-- R116: the entry of an input as READ CHANNELS returns it. -/
theorem channelEntryBytes_input (ch : ChannelUnit) (k : Fin 8) (h : k.val < 16) :
    channelEntryBytes ch ⟨k.val, h⟩ =
      [byteOf k.val, channelSettings ch.inputs[k].enabled ch.inputs[k].source.code] ++
        threeBytes ch.inputs[k].constant := by
  rw [channelEntryBytes, dif_pos k.isLt]
  rfl

/-- R68, R116: the entry of an output, its unused fields zero. -/
theorem channelEntryBytes_output (ch : ChannelUnit) (k : Fin 8) (h : k.val + 8 < 16) :
    channelEntryBytes ch ⟨k.val + 8, h⟩ =
      [byteOf (k.val + 8), channelSettings ch.outputs[k].enabled ch.outputs[k].policy.code, 0, 0, 0] := by
  rw [channelEntryBytes, dif_neg (by simp)]
  simp

/-- Settles O24, layout by layout. -/
theorem entriesReadBack : Obligations.EntriesReadBack := by
  unfold Obligations.EntriesReadBack
  refine ⟨readPlanEntry_byte, readPlanEntry_eq_none, readPlanEntry_eq_some, fun ch k => ?inputBytes,
    fun ch k => ?outputBytes, fun b0 b1 b2 b3 b4 => ⟨?input, ?output, readChannelEntry_eq_none b0 b1 b2 b3 b4⟩⟩
  case inputBytes =>
    obtain ⟨code, enabled⟩ := channelSettings_fields ch.inputs[k].enabled ch.inputs[k].source.code
    refine ⟨_, _, _, _, _, channelEntryBytes_input ch k (by omega), ?_⟩
    rw [readChannelEntry_input _ _ _ _ (byteOf_toNat (by omega)), code, enabled, readSource_code, readThree_bytes]
    rfl
  case outputBytes =>
    obtain ⟨code, enabled⟩ := channelSettings_fields ch.outputs[k].enabled ch.outputs[k].policy.code
    refine ⟨_, _, channelEntryBytes_output ch k (by omega), fun b2 b3 b4 => ?_⟩
    rw [readChannelEntry_output _ _ _ _ (byteOf_toNat (by omega)), code, enabled, readPolicy_code]
    rfl
  case input =>
    intro k source hk hc
    rw [readChannelEntry_input _ _ _ _ hk, hc, readSource_code]
    rfl
  case output =>
    intro k policy hk hc
    rw [readChannelEntry_output _ _ _ _ hk, hc, readPolicy_code]
    rfl

end Sys2Proof.Machine
end

section
/-! PROOFS. What a command that takes a request comes to by the verdict of its kind (R92 to R101), and WRITE PLAN (R133,
R134). -/

namespace Sys2Proof.Machine

open Sys2Proof.Claims

/-! ### From the verdict of a kind to the end of its request (R97, R100) -/

/-- A request that the executor takes need not wait, unless it is a broadcast that would place a ROLL-CALL RETURN. -/
theorem mustWait_of_takes {kind : Byte} {s : State} {r : Request} {rest : List Request}
    (h : Takes kind s r rest) (hp : placesReturn r s = false) : mustWait r s = false := by
  obtain ⟨-, -, -, room⟩ := h
  unfold mustWait
  cases ha : r.addressing with
  | individual => simp [State.hasRoom, (room ha).1]
  | broadcast => simp [hp]

/-- A request that the executor takes belongs to the row of its kind. -/
theorem rowOfKind_of_takes {k : RequestKind} {s : State} {r : Request} {rest : List Request}
    (h : Takes k.code s r rest) : rowOfKind (some k) s r = true := by
  obtain ⟨-, -, kind, room⟩ := h
  have notStored : storeHit r s = none := storeHit_eq_none fun ha hseq e he => (room ha).2 hseq e he
  simp [rowOfKind, kind, notStored]

/-- R92: the command of a kind executes the request that the executor takes. -/
theorem takeKind_of_takes {k : RequestKind} {s : State} {r : Request} {rest : List Request}
    (h : Takes k.code s r rest) (hp : placesReturn r s = false) (own : Request → State → Verdict) :
    takeKind k own s = execute k own r (taken s rest) := by
  have ⟨oldest, taking, _⟩ := h
  exact takeOldest_deals _ oldest taking (rowOfKind_of_takes h) (mustWait_of_takes h hp)

/-- R100, R101: answering a request ends it. -/
theorem ends_of_answer {c : Instr} {s t : State} {r : Request} {status : Status} {data : List Byte}
    (h : exec c s = .next (answer s.executor.address r status data t)) : Ends c s r status.code data t := by
  refine ⟨fun ha => ?_, fun ha => ⟨replyMessage s.executor.address r status data, ?_, ?_⟩⟩
  · rw [h, answer, ha]
  · exact ⟨rfl, rfl, rfl, rfl, rfl, buildMessage_check ..⟩
  · rw [h, answer, ha]
    simp only [placeReply, withReply]
    split <;> rfl

section

variable {k : RequestKind} {c : Instr} {s : State} {r : Request} {rest : List Request}

/-- A kind's refusal ends the request with the status of the refusal and no effect. -/
theorem ends_of_refuse (takes : Takes k.code s r rest) (noReturn : placesReturn r s = false)
    (row : exec c s = .next (takeKind k k.own s)) (checked : generalCheck k r = none) {status : Status}
    (own : k.own r (taken s rest) = .refuse status) : Ends c s r status.code [] (taken s rest) := by
  apply ends_of_answer
  rw [row, takeKind_of_takes takes noReturn, execute_refuse checked own]
  rfl

/-- A kind's effect ends the request with the status OK. -/
theorem ends_of_run (takes : Takes k.code s r rest) (noReturn : placesReturn r s = false)
    (row : exec c s = .next (takeKind k k.own s)) (checked : generalCheck k r = none) {t : State} {data : List Byte}
    (own : k.own r (taken s rest) = .run t data) : Ends c s r 0x00 data t := by
  refine ends_of_answer (status := .ok) ?_
  rw [row, takeKind_of_takes takes noReturn, execute_run checked own]
  rfl

end

/-- A kind that is executed both ways passes the general checks by its length alone. -/
theorem generalCheck_eq_none {k : RequestKind} {r : Request} (both : allowsBroadcast k = true)
    (notOnly : broadcastOnly k = false) (length : lengthFits k r.payload = true) : generalCheck k r = none := by
  unfold generalCheck
  cases r.addressing <;> simp [both, notOnly, length]

/-- A request of any kind but ASSIGN and ROLL CALL places no ROLL-CALL RETURN. -/
theorem placesReturn_of_takes {k : RequestKind} {s : State} {r : Request} {rest : List Request}
    (h : Takes k.code s r rest) (hk : k ≠ .assign ∧ k ≠ .rollCall) : placesReturn r s = false := by
  have ⟨_, _, kind, _⟩ := h
  refine placesReturn_eq_false ?_ ?_ <;> rw [kind, readKind_code] <;> simp [hk]

/-! ### The tests of a plan write (R41 to R43) -/

theorem readDirection_eq_none {b : Byte} (h : 2 ≤ b.toNat) : readDirection b = none := by
  revert h
  decide +revert

@[simp] theorem readDirection_code (d : Direction) : readDirection d.code = some d := by
  cases d <;> decide

@[simp] theorem byteOf_byte (b : Byte) : byteOf b.toNat = b := by
  simp [byteOf]

/-- R41: a count of at least 1 that fits behind the first slot is all that a window needs. -/
theorem planWindowValid_iff (first count : Nat) :
    planWindowValid first count = true ↔ 1 ≤ count ∧ first + count ≤ 32 := by
  simp only [planWindowValid, Bool.and_eq_true, decide_eq_true_eq]
  omega

/-- R40, R43: a bank is lawful when no output is named twice. -/
theorem Bank.lawful_iff (b : Bank) : b.lawful = true ↔ ∀ k : Fin 8, b.namings k ≤ 1 := by
  simp [Bank.lawful]

/-- R42: the entries are refused when one of them is. -/
theorem mapM_readPlanEntry_eq_none {bytes : List Byte} (h : ∃ b ∈ bytes, readPlanEntry b = none) :
    bytes.mapM readPlanEntry = none := by
  induction bytes with
  | nil => simp at h
  | cons b bs ih =>
    rw [List.mapM_cons]
    cases hb : readPlanEntry b with
    | none => rfl
    | some e =>
      have later : ∃ x ∈ bs, readPlanEntry x = none := by simpa [hb] using h
      rw [ih later]
      rfl

theorem mapM_readPlanEntry_eq_some {bytes : List Byte} {entries : List PlanEntry}
    (h : bytes.map readPlanEntry = entries.map some) : bytes.mapM readPlanEntry = some entries := by
  calc bytes.mapM readPlanEntry = (bytes.map readPlanEntry).mapM id := (List.mapM_map (g := id)).symm
    _ = (entries.map some).mapM id := by rw [h]
    _ = entries.mapM pure := List.mapM_map
    _ = some entries := by rw [List.mapM_pure, List.map_id']; rfl

/-! ### WRITE PLAN (R133, R134) -/

theorem Plan.written_getElem (p : Plan) (first : Nat) (entries : List PlanEntry) (j : Fin 32) :
    (p.written first entries)[j] =
      if first ≤ j.val then (entries[j.val - first]?).getD p[j] else p[j] := by
  simp [Plan.written]

/-- The bank that a plan write makes of an old one: the window of one direction replaced. -/
def Bank.windowWritten (b : Bank) (d : Direction) (first : Nat) (entries : List PlanEntry) : Bank :=
  b.setPlan d ((b.plan d).written first entries)

section

variable {s : State} {r : Request} {direction first count : Byte} {bytes : List Byte}

/-- What WRITE PLAN reads of its payload. -/
theorem writePlan_payload (payload : r.payload = direction :: first :: count :: bytes)
    (length : bytes.length = count.toNat) :
    byteAt r.payload 0 = direction ∧ byteAt r.payload 1 = first ∧ byteAt r.payload 2 = count ∧
      (r.payload.drop 3).take count.toNat = bytes ∧ generalCheck .writePlan r = none := by
  rw [payload]
  refine ⟨rfl, rfl, rfl, List.take_of_length_le (le_of_eq length), generalCheck_eq_none rfl rfl ?_⟩
  rw [payload]
  simp only [lengthFits, List.length_cons, length, byteAt, List.getD_cons_succ, List.getD_cons_zero, Bool.and_eq_true,
    decide_eq_true_eq, beq_iff_eq]
  omega

/-- R133: in ARMED a plan write is refused FROZEN. -/
theorem writePlanOwn_armed (hs : s.plan.state = .armed) : writePlanOwn r s = .refuse .frozen := by
  simp only [writePlanOwn, hs]

/-- R133: in SPLIT and REFRESH a plan write is refused BUSY. -/
theorem writePlanOwn_busy (hs : s.plan.state = .split ∨ s.plan.state = .refresh) :
    writePlanOwn r s = .refuse .busy := by
  rcases hs with hs | hs <;> simp only [writePlanOwn, hs]

/-- R41: a direction that names nothing and an invalid window are refused. -/
theorem writePlanOwn_window (hs : s.plan.state = .idle)
    (payload : r.payload = direction :: first :: count :: bytes) (length : bytes.length = count.toNat)
    (h : 2 ≤ direction.toNat ∨ count.toNat = 0 ∨ 32 < first.toNat + count.toNat) :
    writePlanOwn r s = .refuse .outOfRange := by
  obtain ⟨h0, h1, h2, -, -⟩ := writePlan_payload payload length
  simp only [writePlanOwn, hs, h0, h1, h2]
  split
  · rfl
  · rename_i d hd
    have names : ¬ 2 ≤ direction.toNat := fun g => by
      rw [readDirection_eq_none g] at hd
      cases hd
    rw [if_neg]
    rw [planWindowValid_iff]
    omega

/-- R42: an entry that names nothing is refused, whatever the window. -/
theorem writePlanOwn_entry (hs : s.plan.state = .idle)
    (payload : r.payload = direction :: first :: count :: bytes) (length : bytes.length = count.toNat)
    (h : ∃ b ∈ bytes, readPlanEntry b = none) : writePlanOwn r s = .refuse .outOfRange := by
  obtain ⟨h0, h1, h2, h3, -⟩ := writePlan_payload payload length
  simp only [writePlanOwn, hs, h0, h1, h2, h3, mapM_readPlanEntry_eq_none h]
  split
  · rfl
  · split <;> rfl

/-- R43, R134: a readable write of a valid window is refused CONFLICT or replaces the window of the draft bank. -/
theorem writePlanOwn_write (hs : s.plan.state = .idle) {d : Direction} {entries : List PlanEntry}
    (payload : r.payload = d.code :: first :: count :: bytes) (length : bytes.length = count.toNat)
    (hc : 1 ≤ count.toNat) (hw : first.toNat + count.toNat ≤ 32)
    (he : bytes.map readPlanEntry = entries.map some) :
    writePlanOwn r s =
      if ((s.plan.bank s.plan.draft).windowWritten d first.toNat entries).lawful then
        .run
          { s with plan :=
              s.plan.setBank s.plan.draft ((s.plan.bank s.plan.draft).windowWritten d first.toNat entries) }
          [s.plan.draft.code, d.code, first, count]
      else .refuse .conflict := by
  obtain ⟨h0, h1, h2, h3, -⟩ := writePlan_payload payload length
  simp only [writePlanOwn, hs, h0, h1, h2, h3, readDirection_code, mapM_readPlanEntry_eq_some he,
    (planWindowValid_iff _ _).2 ⟨hc, hw⟩, if_true, byteOf_byte]
  rfl

end

/-- Settles O43: the verdict of WRITE PLAN in each case, and the end of the request by its verdict (`ends_of_refuse`,
`ends_of_run`). -/
theorem writePlanTestsAndWritesDraft : Obligations.WritePlanTestsAndWritesDraft := by
  unfold Obligations.WritePlanTestsAndWritesDraft
  intro s r rest direction first count bytes (takes : Takes RequestKind.writePlan.code s r rest) payload length
  obtain ⟨-, -, -, -, checked⟩ := writePlan_payload payload length
  have noReturn := placesReturn_of_takes takes (by decide)
  have refused {status : Status} (own : writePlanOwn r (taken s rest) = .refuse status) :
      Ends .writePlan s r status.code [] (taken s rest) := ends_of_refuse takes noReturn rfl checked own
  refine ⟨fun hs => refused (writePlanOwn_armed hs), fun hs => refused (writePlanOwn_busy hs),
    fun hs h => refused (writePlanOwn_window hs payload length h),
    fun hs h => refused (writePlanOwn_entry hs payload length h), fun d entries hs hd hc hw he => ?_⟩
  subst hd
  have own := writePlanOwn_write (s := taken s rest) hs payload length hc hw he
  refine ⟨(s.plan.bank s.plan.draft).windowWritten d first.toNat entries, fun j => ?window, fun d' hd' => ?other,
    fun hn => ?conflict, fun hn => ?write⟩
  case window => rw [Bank.windowWritten, Bank.plan_setPlan, Plan.written_getElem]
  case other => exact Bank.plan_setPlan_other _ hd' _
  case conflict =>
    obtain ⟨k, hk⟩ := hn
    exact refused (own.trans (if_neg fun lawful => absurd ((Bank.lawful_iff _).1 lawful k) (Nat.not_le.2 hk)))
  case write => exact ends_of_run takes noReturn rfl checked (own.trans (if_pos ((Bank.lawful_iff _).2 hn)))

end Sys2Proof.Machine
end

section
/-! PROOFS. The superframe boundary: the changeover check and the refresh completion (R50, R51, R58). -/

namespace Sys2Proof.Machine

open Sys2Proof.Claims

/-! ### The changeover check (R50, R51) -/

/-- R50: an armed changeover fires at a boundary at or after its target. -/
theorem changeoverCheck_fires {s : State} {n target : Superframe} (armed : s.plan.state = .armed)
    (ht : s.plan.target = some target) (reached : (n - target).toNat < 8388608) :
    changeoverCheck n s =
      { flagged s .changeover with
        plan := s.plan.fired n target
        notices := { s.notices with changeoverDone := some { superframe := n, late := n != target } } } := by
  simp only [changeoverCheck, armed, ht, (atOrAfter_iff _ _).2 reached, if_true]
  rfl

/-- R50: at a boundary before the target an armed changeover stays armed. -/
theorem changeoverCheck_before {s : State} {n target : Superframe} (ht : s.plan.target = some target)
    (early : 8388608 ≤ (n - target).toNat) : changeoverCheck n s = s := by
  obtain e | ⟨t, -, ht', reached, -⟩ := changeoverCheck_cases n s
  · exact e
  · obtain rfl : target = t := Option.some.inj (ht.symm.trans ht')
    exact absurd ((atOrAfter_iff _ _).1 reached) (Nat.not_lt.2 early)

theorem changeoverCheck_of_not_armed {s : State} (n : Superframe) (h : s.plan.state ≠ .armed) :
    changeoverCheck n s = s := by
  obtain e | ⟨_, armed, -⟩ := changeoverCheck_cases n s
  · exact e
  · exact absurd armed h

/-! ### The refresh completion (R58) -/

/-- Each bank is the draft, which takes the copy, or the live one, which is its source. -/
theorem PlanStore.bank_setBank_draft_live (p : PlanStore) (n : BankName) :
    (p.setBank p.draft (p.bank p.live)).bank n = p.bank p.live := by
  by_cases h : n = p.draft
  · rw [h, PlanStore.bank_setBank]
  · rw [p.bank_setBank_other h, p.eq_live_of_ne_draft h]

theorem refreshCompletion_completes {s : State} (h : s.plan.state = .refresh) :
    refreshCompletion s =
      { s with plan := { s.plan.setBank s.plan.draft (s.plan.bank s.plan.live) with state := .idle } } := by
  simp only [refreshCompletion, h]

theorem refreshCompletion_of_not_refresh {s : State} (h : s.plan.state ≠ .refresh) : refreshCompletion s = s := by
  obtain e | ⟨refresh, -⟩ := refreshCompletion_cases s
  · exact e
  · exact absurd refresh h

/-- Settles O22: the check by the side of the target on which the boundary lies, and the completion by the banks that the
copy leaves (`PlanStore.bank_setBank_draft_live`). -/
theorem boundaryFiresChangeoverOrCompletesRefresh : Obligations.BoundaryFiresChangeoverOrCompletesRefresh := by
  unfold Obligations.BoundaryFiresChangeoverOrCompletesRefresh
  intro s n
  refine ⟨fun target armed ht reached => ⟨n != target, bne_iff_ne, changeoverCheck_fires armed ht reached⟩,
    fun _ _ ht early => changeoverCheck_before ht early, changeoverCheck_of_not_armed n, fun refresh => ?completes,
    refreshCompletion_of_not_refresh⟩
  case completes =>
    have copied := s.plan.bank_setBank_draft_live
    exact ⟨_, refreshCompletion_completes refresh, rfl, copied .a, copied .b, PlanStore.setBank_live ..,
      PlanStore.setBank_target .., PlanStore.setBank_applied .., PlanStore.setBank_oldBank ..,
      PlanStore.setBank_lateChangeovers ..⟩

end Sys2Proof.Machine
end

section
/-! PROOFS. The channel unit and the converter port: the exchange, the input words, and the zero of the disabled channels
that every step keeps (R64 to R76). -/

namespace Sys2Proof.Machine

/-! ### The converter exchange, channel by channel (R70, R71) -/

theorem ChannelUnit.exchange_input (ch : ChannelUnit) (k : Fin 8) :
    ch.exchange.inputs[k] = ch.inputs[k].exchanged := by
  simp [ChannelUnit.exchange]

theorem ChannelUnit.exchange_output (ch : ChannelUnit) (k : Fin 8) :
    ch.exchange.outputs[k] = ch.outputs[k].exchanged := by
  simp [ChannelUnit.exchange]

theorem ChannelUnit.exchange_frame (ch : ChannelUnit) :
    ∃ frame, ch.exchange.converterFrame = some frame ∧ frame.next = 0 ∧
      ∀ k : Fin 8, frame.words[k] = ch.outputs[k].presented :=
  ⟨_, rfl, rfl, fun k => by simp⟩

theorem InputChannel.exchanged_port {c : InputChannel} (enabled : c.enabled = true) (source : c.source = .port) :
    c.exchanged = { c with sample := c.word } := by
  simp only [InputChannel.exchanged, enabled, source, if_true]

theorem InputChannel.exchanged_constant {c : InputChannel} (enabled : c.enabled = true)
    (source : c.source = .constant) : c.exchanged = { c with sample := c.constant } := by
  simp only [InputChannel.exchanged, enabled, source, if_true]

theorem InputChannel.exchanged_ramp {c : InputChannel} (enabled : c.enabled = true) (source : c.source = .ramp) :
    c.exchanged = { c with sample := c.ramp, ramp := c.ramp + 1 } := by
  simp only [InputChannel.exchanged, enabled, source, if_true]

theorem InputChannel.exchanged_disabled {c : InputChannel} (disabled : c.enabled = false) :
    c.exchanged = { c with sample := 0 } := by
  simp only [InputChannel.exchanged, disabled, Bool.false_eq_true, if_false]

@[simp] theorem InputChannel.exchanged_enabled (c : InputChannel) : c.exchanged.enabled = c.enabled := by
  unfold InputChannel.exchanged
  split
  · split <;> rfl
  · rfl

theorem OutputChannel.presented_holding {c : OutputChannel} (enabled : c.enabled = true)
    (h : c.written = true ∨ c.policy = .hold) : c.presented = c.holding := by
  rcases h with written | policy
  · simp only [OutputChannel.presented, enabled, written, if_true]
  · simp only [OutputChannel.presented, enabled, policy, if_true, ite_self]

theorem OutputChannel.presented_zero {c : OutputChannel} (unwritten : c.written = false) (policy : c.policy = .zero) :
    c.presented = 0 := by
  simp only [OutputChannel.presented, unwritten, policy, Bool.false_eq_true, if_false, ite_self]

theorem OutputChannel.presented_disabled {c : OutputChannel} (disabled : c.enabled = false) : c.presented = 0 := by
  simp only [OutputChannel.presented, disabled, Bool.false_eq_true, if_false]

/-- Settles O20, by the source of the input (R70) and by the written mark and the policy of the output (R71). -/
theorem converterExchangeFollowsTables : Obligations.ConverterExchangeFollowsTables := by
  unfold Obligations.ConverterExchangeFollowsTables
  intro ch k
  obtain ⟨frame, started, -, words⟩ := ch.exchange_frame
  simp only [ch.exchange_input k, ch.exchange_output k]
  exact ⟨InputChannel.exchanged_port, InputChannel.exchanged_constant, InputChannel.exchanged_ramp,
    InputChannel.exchanged_disabled, rfl, rfl, rfl, rfl, OutputChannel.presented_holding,
    fun _ => OutputChannel.presented_zero, OutputChannel.presented_disabled, frame, started, words k⟩

/-! ### A word of the converter frame (R69) -/

/-- A word in its turn replaces one register, and the output word of the same number leaves. -/
theorem exec_converterWordReceived_inTurn {s : State} {frame : ConverterFrame}
    (h : s.chan.converterFrame = some frame) (word : Sample) :
    exec (.converterWordReceived frame.next word) s = .next
      { s with
        chan := { s.chan with
          inputs := s.chan.inputs.set frame.next { s.chan.inputs[frame.next] with word := word }
          converterFrame := if frame.next = 7 then none else some { frame with next := frame.next + 1 } }
        wires := { s.wires with converterSent := s.wires.converterSent ++ [.word frame.words[frame.next]] } } := by
  have turn : s.chan.turnOf frame.next = some frame := ChannelUnit.turnOf_eq_some.2 ⟨h, rfl⟩
  show Host.Outcome.next (converterWord frame.next word s) = _
  obtain ⟨outOfTurn, -⟩ | ⟨g, inTurn, sent, received⟩ := s.chan.wordReceived_cases frame.next word
  · rw [turn] at outOfTurn
    cases outOfTurn
  · obtain rfl : frame = g := Option.some.inj (turn.symm.trans inTurn)
    rw [converterWord, sent, received]

/-- A word out of its turn, or with no frame in progress, is shifted in by nothing. -/
theorem exec_converterWordReceived_outOfTurn {s : State} {k : Fin 8}
    (h : ∀ frame, s.chan.converterFrame = some frame → k ≠ frame.next) (word : Sample) :
    exec (.converterWordReceived k word) s = .next s := by
  show Host.Outcome.next (converterWord k word s) = _
  obtain ⟨-, received, sent⟩ | ⟨g, turn, -⟩ := s.chan.wordReceived_cases k word
  · rw [converterWord, received, sent, List.append_nil]
  · obtain ⟨progress, next⟩ := ChannelUnit.turnOf_eq_some.1 turn
    exact absurd next.symm (h g progress)

/-- Settles O21: a word in its turn, and a word out of it. -/
theorem converterWordReplacesRegister : Obligations.ConverterWordReplacesRegister := by
  unfold Obligations.ConverterWordReplacesRegister
  intro s word
  obtain ⟨started, start, first, -⟩ := s.chan.exchange_frame
  refine ⟨fun frame h => ⟨⟨_, exec_converterWordReceived_inTurn h word, ?register, fun j hj => ?others,
      fun before => ?progress, fun last => if_pos last, rfl⟩, fun k hk => ?outOfTurn⟩, fun h k => ?noFrame,
    started, start, first⟩
  case register => exact Vector.getElem_set_self _
  case others => exact Vector.getElem_set_ne frame.next.isLt j.isLt fun e => hj (Fin.ext e.symm)
  case progress =>
    have notLast : frame.next ≠ 7 := fun e => by simp [e] at before
    exact ⟨_, if_neg notLast, Fin.val_add_one_of_lt (n := 7) (Fin.lt_def.2 before), rfl⟩
  case outOfTurn =>
    refine exec_converterWordReceived_outOfTurn (fun g hg => ?_) word
    obtain rfl : frame = g := Option.some.inj (h.symm.trans hg)
    exact hk
  case noFrame =>
    refine exec_converterWordReceived_outOfTurn (fun g hg => ?_) word
    rw [h] at hg
    cases hg

/-! ### Disabled channels (R64): what the operations of the channel unit keep (O57) -/

/-- R64, of one input. -/
def InputChannel.ZeroIfDisabled (c : InputChannel) : Prop :=
  c.enabled = false → c.sample = 0

/-- R64, of one output. -/
def OutputChannel.ZeroIfDisabled (c : OutputChannel) : Prop :=
  c.enabled = false → c.holding = 0 ∧ c.written = false

/-- R64, of the channel unit. -/
def ChannelUnit.DisabledZero (ch : ChannelUnit) : Prop :=
  (∀ k : Fin 8, ch.inputs[k].ZeroIfDisabled) ∧ ∀ k : Fin 8, ch.outputs[k].ZeroIfDisabled

/-- DisabledChannelsZero speaks of the channel unit alone. -/
theorem disabledChannelsZero_iff {s : State} : DisabledChannelsZero s ↔ s.chan.DisabledZero :=
  Iff.rfl

theorem DisabledChannelsZero.of_chan {s t : State} (h : DisabledChannelsZero s) (e : t.chan = s.chan) :
    DisabledChannelsZero t := by
  rw [disabledChannelsZero_iff, e]
  exact h

/-- What holds of every channel and of the one that replaces a channel holds of every channel after the replacement. -/
theorem forall_getElem_set {α : Type} {n : Nat} {p : α → Prop} {v : Vector α n} (h : ∀ k : Fin n, p v[k]) (j : Fin n)
    {x : α} (hx : p x) (k : Fin n) : p (v.set j x)[k] := by
  by_cases e : j = k
  · subst e
    rw [Fin.getElem_fin, Vector.getElem_set_self]
    exact hx
  · rw [Fin.getElem_fin, Vector.getElem_set_ne _ _ (Fin.val_ne_of_ne e)]
    exact h k

/-- R70: the exchange gives a disabled input the sample zero. -/
theorem InputChannel.exchanged_zeroIfDisabled (c : InputChannel) : c.exchanged.ZeroIfDisabled := by
  intro disabled
  rw [InputChannel.exchanged_enabled] at disabled
  rw [InputChannel.exchanged_disabled disabled]

/-- R71: the exchange settles a disabled output at zero. -/
theorem OutputChannel.exchanged_zeroIfDisabled (c : OutputChannel) : c.exchanged.ZeroIfDisabled :=
  fun disabled => ⟨OutputChannel.presented_disabled disabled, rfl⟩

/-- The exchange zeroes the disabled channels, whatever they held. -/
theorem ChannelUnit.exchange_disabledZero (ch : ChannelUnit) : ch.exchange.DisabledZero := by
  refine ⟨fun k => ?_, fun k => ?_⟩
  · rw [ch.exchange_input]
    exact InputChannel.exchanged_zeroIfDisabled _
  · rw [ch.exchange_output]
    exact OutputChannel.exchanged_zeroIfDisabled _

/-- R65: a table write zeroes the input that it disables. -/
theorem InputChannel.tableWritten_zeroIfDisabled (c : InputChannel) (enabled : Bool) (source : InputSource)
    (constant : Sample) : (c.tableWritten enabled source constant).ZeroIfDisabled := by
  rintro rfl
  rfl

/-- R65: a table write zeroes the output that it disables. -/
theorem OutputChannel.tableWritten_zeroIfDisabled (c : OutputChannel) (enabled : Bool) (policy : VacancyPolicy) :
    (c.tableWritten enabled policy).ZeroIfDisabled := by
  rintro rfl
  exact ⟨rfl, rfl⟩

theorem ChannelUnit.DisabledZero.applyEntry {ch : ChannelUnit} (h : ch.DisabledZero) (e : ChannelEntry) :
    (ch.applyEntry e).DisabledZero := by
  obtain ⟨inputs, outputs⟩ := h
  cases e with
  | input k enabled source constant =>
    exact ⟨forall_getElem_set inputs k (InputChannel.tableWritten_zeroIfDisabled _ enabled source constant), outputs⟩
  | output k enabled policy =>
    exact ⟨inputs, forall_getElem_set outputs k (OutputChannel.tableWritten_zeroIfDisabled _ enabled policy)⟩

theorem ChannelUnit.DisabledZero.tableWrite {ch : ChannelUnit} (h : ch.DisabledZero) (entries : List ChannelEntry) :
    (ch.tableWrite entries).DisabledZero := by
  unfold ChannelUnit.tableWrite
  induction entries generalizing ch with
  | nil => exact h
  | cons e es ih => exact ih (h.applyEntry e)

theorem ChannelUnit.countersCleared_input (ch : ChannelUnit) (k : Fin 8) :
    ch.countersCleared.inputs[k] = { ch.inputs[k] with collisions := 0 } := by
  simp [ChannelUnit.countersCleared]

theorem ChannelUnit.countersCleared_output (ch : ChannelUnit) (k : Fin 8) :
    ch.countersCleared.outputs[k] = { ch.outputs[k] with vacancies := 0 } := by
  simp [ChannelUnit.countersCleared]

/-- R73: clearing the counters leaves samples, holding values and written marks. -/
theorem ChannelUnit.DisabledZero.countersCleared {ch : ChannelUnit} (h : ch.DisabledZero) :
    ch.countersCleared.DisabledZero := by
  obtain ⟨inputs, outputs⟩ := h
  refine ⟨fun k => ?_, fun k => ?_⟩
  · rw [ch.countersCleared_input]
    exact inputs k
  · rw [ch.countersCleared_output]
    exact outputs k

/-- R119, R131: what the effect of a request can do to the channels keeps the disabled ones at zero. -/
theorem ChannelUnit.DisabledZero.worked {a b : ChannelUnit} (h : a.DisabledZero) (w : TableWorked a b) :
    b.DisabledZero := by
  obtain rfl | rfl | ⟨entries, rfl⟩ := w
  · exact h
  · exact h.countersCleared
  · exact h.tableWrite entries

/-- R30, R31: slot processing leaves the samples of the inputs and all of a disabled output. -/
theorem ChannelUnit.DisabledZero.slots {a b : ChannelUnit} (h : a.DisabledZero) (w : ChannelsWorked a b) :
    b.DisabledZero := by
  obtain ⟨inputs, outputs⟩ := h
  obtain ⟨keptInputs, keptOutputs, -⟩ := w
  refine ⟨fun k => ?_, fun k disabled => ?_⟩
  · rw [keptInputs k]
    exact inputs k
  · obtain ⟨enabled, -, kept⟩ := keptOutputs k
    rw [enabled] at disabled
    rw [kept disabled]
    exact outputs k disabled

/-- R69: a received word replaces a register and no sample. -/
theorem ChannelUnit.DisabledZero.wordReceived {ch : ChannelUnit} (h : ch.DisabledZero) (k : Fin 8) (w : Sample) :
    (ch.wordReceived k w).DisabledZero := by
  obtain ⟨-, e, -⟩ | ⟨_, -, -, e⟩ := ch.wordReceived_cases k w <;> rw [e]
  · exact h
  · obtain ⟨inputs, outputs⟩ := h
    exact ⟨forall_getElem_set inputs k (inputs k), outputs⟩

/-- R76: a node reset zeroes every channel. -/
theorem ChannelUnit.nodeReset_disabledZero (ch : ChannelUnit) : ch.nodeReset.DisabledZero := by
  refine ⟨fun k _ => ?_, fun k _ => ?_⟩ <;>
    simp [ChannelUnit.nodeReset, InputChannel.reset, OutputChannel.reset]

/-! ### The operations that leave the channels alone -/

theorem BoundaryFrame.chan {s t : State} (h : BoundaryFrame s t) : t.chan = s.chan := by
  obtain ⟨_, _, _, _, _, rfl⟩ := h
  rfl

@[simp] theorem assembleChunk_chan (c : Chunk) (s : State) : (assembleChunk c s).chan = s.chan := by
  obtain ⟨_, _, e, -⟩ := assembleChunk_frame c s
  rw [e]

@[simp] theorem inboundReceive_chan (c : Chunk) (s : State) : (inboundReceive c s).chan = s.chan := by
  obtain ⟨_, _, _, _, _, _, e⟩ := inboundReceive_frame c s
  rw [e]

@[simp] theorem arbitrate_chan (s : State) : (arbitrate s).2.chan = s.chan := by
  obtain ⟨_, _, _, _, _, e⟩ := arbitrate_frame s
  rw [e]

@[simp] theorem buildNotice_chan (s : State) : (buildNotice s).chan = s.chan := by
  unfold buildNotice
  split <;> rfl

@[simp] theorem queueRelayIn_chan (s : State) : (queueRelayIn s).chan = s.chan := by
  unfold queueRelayIn
  split
  · split <;> rfl
  · rfl

@[simp] theorem localReadOutward_chan (a : List Byte) (s : State) : (localReadOutward a s).1.chan = s.chan := by
  unfold localReadOutward
  split <;> rfl

@[simp] theorem localWithdrawInward_chan (a : List Byte) (s : State) :
    (localWithdrawInward a s).1.chan = s.chan := by
  unfold localWithdrawInward
  split <;> rfl

@[simp] theorem placeReply_chan (r : Request) (reply : Message) (link : OutLink) (s : State) :
    (placeReply r reply link s).chan = s.chan := by
  unfold placeReply
  simp only
  split <;> rfl

@[simp] theorem answer_chan (source : Byte) (r : Request) (status : Status) (data : List Byte) (s : State) :
    (answer source r status data s).chan = s.chan := by
  unfold answer
  split
  · exact placeReply_chan ..
  · rfl

@[simp] theorem answerFromStore_chan (r : Request) (s : State) : (answerFromStore r s).chan = s.chan := by
  unfold answerFromStore
  split <;> rfl

/-! ### The commands (O57) -/

theorem nodeResetState_disabledChannelsZero (s : State) : DisabledChannelsZero (nodeResetState s) :=
  s.chan.nodeReset_disabledZero

theorem DisabledChannelsZero.slots {s : State} (h : DisabledChannelsZero s) (plan : Plan) (slots : Slots) :
    DisabledChannelsZero (slotEffects plan slots s) := by
  obtain ⟨_, _, worked, e⟩ := slotEffects_frame plan slots s
  rw [e]
  exact ChannelUnit.DisabledZero.slots h worked

theorem DisabledChannelsZero.report {s : State} (h : DisabledChannelsZero s) (c : Chunk) :
    DisabledChannelsZero (emissionReport c s) := by
  obtain ⟨_, _, _, e⟩ | ⟨-, _, e⟩ := emissionReport_cases c s <;> rw [e]
  · exact h
  · exact nodeResetState_disabledChannelsZero _

theorem OwnFrame.table_worked {r : Request} {s t : State} (h : OwnFrame r s t) : TableWorked s.chan t.chan := by
  obtain ⟨_, _, _, _, _, _, _, _, _, _, _, _, _, _, rfl, -, worked, -⟩ := h
  exact worked

/-- A refusal leaves the channels alone, and an effect works them as TableWorked says. -/
theorem execute_disabledChannelsZero {s : State} (h : DisabledChannelsZero s) (k : RequestKind) {r : Request}
    (hk : readKind r.kind = some k) : DisabledChannelsZero (execute k k.own r s) := by
  obtain ⟨_, e⟩ | ⟨t, _, hg, ho, e⟩ := execute_cases k k.own r s <;> rw [e]
  · exact h.of_chan (answer_chan ..)
  · have worked : DisabledChannelsZero t := ChannelUnit.DisabledZero.worked h (own_frame k hk hg ho).table_worked
    exact worked.of_chan (answer_chan ..)

theorem executeResetNode_disabledChannelsZero {s : State} (h : DisabledChannelsZero s) (r : Request) :
    DisabledChannelsZero (executeResetNode r s) := by
  unfold executeResetNode
  split
  · exact h.of_chan (answer_chan ..)
  · exact nodeResetState_disabledChannelsZero s
  · exact h.of_chan (placeReply_chan ..)

/-- Every operation that the commands are made of keeps the invariant; the channels are worked by the resets, the exchange,
the slot engines, the received words and the requests alone. -/
theorem disabledChannelsZero_keptByOperations : KeptByOperations DisabledChannelsZero where
  outside _ _ _ _ _ _ _ _ h := h
  deviceReset _ _ := disabledChannelsZero_reset.of_chan rfl
  nodeReset s _ := nodeResetState_disabledChannelsZero s
  changeover n s h := h.of_chan (changeoverCheck_frame n s).chan
  refresh s h := h.of_chan (refreshCompletion_frame s).chan
  relayBoundary n s h := h.of_chan (relayBoundary_frame n s).chan
  exchange s _ := s.chan.exchange_disabledZero
  slots plan slots _ h := h.slots plan slots
  assemble c s h := h.of_chan (assembleChunk_chan c s)
  select _ _ h := h
  receive c s h := h.of_chan (inboundReceive_chan c s)
  arbitrate s h := h.of_chan (arbitrate_chan s)
  tailMiss _ h := h
  word k w _ h := ChannelUnit.DisabledZero.wordReceived h k w
  report c _ h := h.report c
  notice s h := h.of_chan (buildNotice_chan s)
  relayIn s h := h.of_chan (queueRelayIn_chan s)
  readOutward s h := h.of_chan (localReadOutward_chan [] s)
  postInward _ _ h _ _ _ := h
  withdrawInward s h := h.of_chan (localWithdrawInward_chan [] s)
  waiting _ h _ := h
  request k s _ rest h _ hk _ := execute_disabledChannelsZero (s := s.removed rest) h k hk
  resetNode s r rest h _ := executeResetNode_disabledChannelsZero (s := s.removed rest) h r
  unknownKind s _ rest h _ := DisabledChannelsZero.of_chan (s := s.removed rest) h (answer_chan ..)
  stored s r rest h _ _ := DisabledChannelsZero.of_chan (s := s.removed rest) h (answerFromStore_chan r _)

/-- Settles O57, by the induction over the operations (`KeptByOperations.step`). -/
theorem stepKeepsDisabledChannelsZero : Obligations.StepKeepsDisabledChannelsZero := by
  unfold Obligations.StepKeepsDisabledChannelsZero
  intro s t h hs
  exact disabledChannelsZero_keptByOperations.step (fun _ _ g => g) h hs

end Sys2Proof.Machine
end

section
/-! PROOFS. WRITE CHANNELS, applied whole or refused (R65 to R67, R131). -/

namespace Sys2Proof.Machine

open Sys2Proof.Claims

section

variable {s : State} {r : Request} {count : Byte} {bytes : List Byte}

/-- What WRITE CHANNELS reads of its payload outside its entries. -/
theorem writeChannels_payload (payload : r.payload = count :: bytes) (length : bytes.length = 5 * count.toNat) :
    byteAt r.payload 0 = count ∧ generalCheck .writeChannels r = none := by
  rw [payload]
  refine ⟨rfl, generalCheck_eq_none rfl rfl ?_⟩
  rw [payload]
  simp only [lengthFits, List.length_cons, length, byteAt, List.getD_cons_zero, Bool.and_eq_true, decide_eq_true_eq,
    beq_iff_eq]
  omega

/-- R67: the channel lock refuses a write before any other test. -/
theorem writeChannelsOwn_locked (locked : s.port.channelLock = true) : writeChannelsOwn r s = .refuse .locked := by
  simp only [writeChannelsOwn, locked, if_true]

/-- R66, test 1: a write of no entry or of more than 16 is refused. -/
theorem writeChannelsOwn_count (unlocked : s.port.channelLock = false) (first : byteAt r.payload 0 = count)
    (h : count.toNat = 0 ∨ 16 < count.toNat) : writeChannelsOwn r s = .refuse .outOfRange := by
  have out : ¬(1 ≤ count.toNat ∧ count.toNat ≤ 16) := by omega
  simp only [writeChannelsOwn, unlocked, first, if_neg out, Bool.false_eq_true, if_false]

/-- R66, test 2: a write with an entry that does not read is refused, whatever its count. -/
theorem writeChannelsOwn_unreadable (unlocked : s.port.channelLock = false) (first : byteAt r.payload 0 = count)
    (h : readChannelEntries r.payload count.toNat = none) : writeChannelsOwn r s = .refuse .outOfRange := by
  simp only [writeChannelsOwn, unlocked, first, h, Bool.false_eq_true, if_false, ite_self]

/-- R66, test 3, and R65: a readable write is refused when it names a position twice, and applied whole otherwise. -/
theorem writeChannelsOwn_write (unlocked : s.port.channelLock = false) (first : byteAt r.payload 0 = count)
    (least : 1 ≤ count.toNat) (most : count.toNat ≤ 16) {entries : List ChannelEntry}
    (h : readChannelEntries r.payload count.toNat = some entries) :
    writeChannelsOwn r s =
      if (entries.map ChannelEntry.position).Nodup then .run { s with chan := s.chan.tableWrite entries } [count]
      else .refuse .outOfRange := by
  simp only [writeChannelsOwn, unlocked, first, h, if_pos (And.intro least most), positionsDistinct,
    decide_eq_true_eq, byteOf_byte, Bool.false_eq_true, if_false]

end

/-- Settles O42: the verdict of WRITE CHANNELS in each case, the end of the request by its verdict (`ends_of_refuse`,
`ends_of_run`), and what a table write does to the channels (`tableWrite_input` and its companions). -/
theorem writeChannelsAppliesWholeOrRefuses : Obligations.WriteChannelsAppliesWholeOrRefuses := by
  unfold Obligations.WriteChannelsAppliesWholeOrRefuses
  intro s r rest count bytes (takes : Takes RequestKind.writeChannels.code s r rest) payload length
  obtain ⟨first, checked⟩ := writeChannels_payload payload length
  have noReturn := placesReturn_of_takes takes (by decide)
  have refused {status : Status} (own : writeChannelsOwn r (taken s rest) = .refuse status) :
      Ends .writeChannels s r status.code [] (taken s rest) := ends_of_refuse takes noReturn rfl checked own
  refine ⟨fun locked => refused (writeChannelsOwn_locked locked),
    fun unlocked h => refused (writeChannelsOwn_count unlocked first h),
    fun unlocked h => refused (writeChannelsOwn_unreadable unlocked first h),
    fun entries unlocked least most h => ?readable⟩
  have own := writeChannelsOwn_write (s := taken s rest) unlocked first least most h
  refine ⟨fun twice => refused (own.trans (if_neg twice)), fun distinct => ?applied⟩
  exact ⟨s.chan.tableWrite entries, tableWrite_converterFrame entries s.chan,
    tableWrite_input entries s.chan distinct, tableWrite_output entries s.chan distinct,
    tableWrite_input_other entries s.chan, tableWrite_output_other entries s.chan,
    ends_of_run takes noReturn rfl checked (own.trans (if_pos distinct))⟩

end Sys2Proof.Machine
end

section
/-! PROOFS. The bounds of the request queue and the outgoing queue, and the ranges of the numbers, that every step keeps
(R87, R94, R95, R144, R152, R165, R169, R171, R172). -/

namespace Sys2Proof.Machine

/-! ### The bounds of the outgoing queue (R144) -/

/-- R144: at most 5 messages other than NOTICE messages, and at most one NOTICE. -/
def OutgoingBounded (queue : List OutEntry) : Prop :=
  (queue.filter fun e => !e.isNotice).length ≤ 5 ∧ queue.countP OutEntry.isNotice ≤ 1

/-- R100: what the last-reply store holds is a REPLY. -/
def StoreHoldsReply (lastReply : Option StoredReply) : Prop :=
  ∀ e, lastReply = some e → e.reply.kind = kindReply

theorem queuesBounded_iff {s : State} :
    QueuesBounded s ↔ s.receiver.requests.length ≤ 4 ∧ OutgoingBounded s.inbound.queue ∧
      StoreHoldsReply s.executor.lastReply := by
  simp only [QueuesBounded, State.nonNotices, OutgoingBounded, StoreHoldsReply, and_assoc]

/-- Messages that leave the queue leave it within its bounds. -/
theorem OutgoingBounded.sublist {queue left : List OutEntry} (h : OutgoingBounded queue) (sub : left.Sublist queue) :
    OutgoingBounded left := by
  obtain ⟨others, notices⟩ := h
  exact ⟨(sub.filter _).length_le.trans others, (sub.countP_le (p := OutEntry.isNotice)).trans notices⟩

/-- A queue of one message is within its bounds. -/
theorem outgoingBounded_of_length_le {queue : List OutEntry} (h : queue.length ≤ 1) : OutgoingBounded queue :=
  ⟨((List.length_filter_le ..).trans h).trans (by decide), List.countP_le_length.trans h⟩

/-- R94, R144: another message joins a queue that has room. -/
theorem OutgoingBounded.join {s : State} (h : OutgoingBounded s.inbound.queue) (room : s.nonNotices < 5)
    {e : OutEntry} (kind : e.isNotice = false) : OutgoingBounded (s.inbound.queue ++ [e]) := by
  obtain ⟨-, notices⟩ := h
  unfold State.nonNotices at room
  refine ⟨?_, ?_⟩
  · simp only [List.filter_append, List.length_append, List.filter_cons, kind, Bool.not_false, if_true, List.filter_nil,
      List.length_singleton]
    omega
  · simpa [List.countP_append, kind] using notices

/-- R144, R153: a NOTICE joins a queue that holds none. -/
theorem OutgoingBounded.joinNotice {queue : List OutEntry} (h : OutgoingBounded queue)
    (none : (queue.all fun e => !e.isNotice) = true) {e : OutEntry} (kind : e.isNotice = true) :
    OutgoingBounded (queue ++ [e]) := by
  obtain ⟨others, -⟩ := h
  have noNotice : queue.countP OutEntry.isNotice = 0 := by simpa [List.countP_eq_zero] using none
  refine ⟨?_, ?_⟩
  · simpa [List.filter_append, kind] using others
  · simp [List.countP_append, noNotice, kind]

/-! ### The room that the executor has found (R94, R95) -/

theorem State.hasRoom_iff (s : State) : s.hasRoom = true ↔ s.nonNotices < 5 := by
  simp [State.hasRoom]

/-- R94: an individually addressed request is dealt with where its reply finds room. -/
theorem Dealt.room_of_individual {s : State} {r : Request} {rest : List Request} (d : Dealt s r rest)
    (individual : r.addressing = .individual) : s.nonNotices < 5 := by
  have ready := d.ready
  simp only [mustWait, individual, Bool.not_eq_false'] at ready
  exact s.hasRoom_iff.1 ready

/-- R95: a broadcast request that places a ROLL-CALL RETURN is dealt with where the return finds room. -/
theorem Dealt.room_of_return {s : State} {r : Request} {rest : List Request} (d : Dealt s r rest)
    (broadcast : r.addressing = .broadcast) (placed : placesReturn r s = true) : s.nonNotices < 5 := by
  have ready := d.ready
  simp only [mustWait, broadcast, placed, Bool.true_and, Bool.not_eq_false'] at ready
  exact s.hasRoom_iff.1 ready

/-- A request that leaves its queue leaves the queues within their bounds. -/
theorem Dealt.removed_bounded {s : State} {r : Request} {rest : List Request} (d : Dealt s r rest)
    (h : QueuesBounded s) : QueuesBounded (s.removed rest) := by
  rw [queuesBounded_iff] at h ⊢
  obtain ⟨requests, queue, store⟩ := h
  rw [d.oldest, List.length_cons] at requests
  exact ⟨show rest.length ≤ 4 by omega, queue, store⟩

/-! ### What the operations do to the queues -/

/-- R100, R101: a reply that finds room joins the outgoing queue and the last-reply store. -/
theorem QueuesBounded.placeReply {s : State} (h : QueuesBounded s) (room : s.nonNotices < 5) {r : Request}
    {reply : Message} (kind : reply.kind = kindReply) (link : OutLink) :
    QueuesBounded (placeReply r reply link s) := by
  rw [queuesBounded_iff] at h
  obtain ⟨requests, queue, store⟩ := h
  have joined := queue.join room (e := { message := reply, link := link })
    (show (reply.kind == kindNotice) = false by rw [kind]; rfl)
  unfold Sys2Proof.Machine.placeReply
  simp only
  split
  · exact queuesBounded_iff.2 ⟨requests, joined, store⟩
  · refine queuesBounded_iff.2 ⟨requests, joined, fun e he => ?_⟩
    cases he
    exact kind

/-- R96, R100: an answer finds the room that an individually addressed request has waited for. -/
theorem QueuesBounded.answer {s : State} (h : QueuesBounded s) {r : Request}
    (room : r.addressing = .individual → s.nonNotices < 5) (source : Byte) (status : Status) (data : List Byte) :
    QueuesBounded (answer source r status data s) := by
  unfold Sys2Proof.Machine.answer
  split
  · rename_i individual
    exact h.placeReply (room individual) rfl .plain
  · exact h

/-- The effect of a request adds to the outgoing queue nothing but the ROLL-CALL RETURN of a broadcast. -/
theorem OwnFrame.queues {r : Request} {s t : State} (h : OwnFrame r s t) :
    t.receiver.requests = s.receiver.requests ∧ t.executor.lastReply = s.executor.lastReply ∧
      (t.inbound.queue = s.inbound.queue ∨
        (r.addressing = .broadcast ∧ placesReturn r s = true ∧
          ∃ e : OutEntry, e.isNotice = false ∧ t.inbound.queue = s.inbound.queue ++ [e])) := by
  obtain ⟨_, _, _, _, _, _, _, _, _, _, _, _, _, _, rfl, -, -, placed, -, -, lastReply, -⟩ := h
  refine ⟨rfl, lastReply, ?_⟩
  obtain rfl | ⟨_, _, rfl⟩ | ⟨broadcast, places, m, kind, rfl⟩ := placed
  · exact .inl rfl
  · exact .inl rfl
  · exact .inr ⟨broadcast, places, { message := m, link := .plain },
      show (m.kind == kindNotice) = false by rw [kind]; rfl, rfl⟩

/-- R94, R95: every message that the execution of a request adds finds the room that the request has waited for. -/
theorem execute_queuesBounded {s : State} (h : QueuesBounded s) {k : RequestKind} {r : Request} {rest : List Request}
    (d : Dealt s r rest) (hk : readKind r.kind = some k) : QueuesBounded (execute k k.own r (s.removed rest)) := by
  have removed := d.removed_bounded h
  obtain ⟨_, e⟩ | ⟨t, _, hg, ho, e⟩ := execute_cases k k.own r (s.removed rest) <;> rw [e]
  · exact removed.answer d.room_of_individual _ _ _
  · obtain ⟨requests, lastReply, queue⟩ := (own_frame k hk hg ho).queues
    rw [queuesBounded_iff, ← requests, ← lastReply] at removed
    obtain ⟨few, bounded, store⟩ := removed
    obtain queue | ⟨broadcast, places, x, kind, queue⟩ := queue
    · have worked : QueuesBounded t := queuesBounded_iff.2 ⟨few, queue ▸ bounded, store⟩
      have same : t.nonNotices = s.nonNotices := by rw [State.nonNotices, queue]; rfl
      exact worked.answer (fun individual => same ▸ d.room_of_individual individual) _ _ _
    · have joined := OutgoingBounded.join bounded (d.room_of_return broadcast places) kind
      have worked : QueuesBounded t := queuesBounded_iff.2 ⟨few, queue ▸ joined, store⟩
      exact worked.answer (fun individual => by rw [broadcast] at individual; cases individual) _ _ _

/-- R156: a node reset leaves the message being sent at most. -/
theorem InboundUnit.keptQueue_length (u : InboundUnit) : u.keptQueue.length ≤ 1 := by
  unfold InboundUnit.keptQueue
  split
  · rw [List.length_map, List.length_take]
    exact Nat.min_le_left ..
  · exact Nat.zero_le _

/-- R90, R105, R156: a node reset empties the request queue and the last-reply store. -/
theorem nodeResetState_queuesBounded (s : State) : QueuesBounded (nodeResetState s) :=
  queuesBounded_iff.2
    ⟨Nat.zero_le _, outgoingBounded_of_length_le s.inbound.keptQueue_length, fun _ h => nomatch h⟩

theorem executeResetNode_queuesBounded {s : State} (h : QueuesBounded s) {r : Request} {rest : List Request}
    (d : Dealt s r rest) : QueuesBounded (executeResetNode r (s.removed rest)) := by
  have removed := d.removed_bounded h
  unfold executeResetNode
  split
  · exact removed.answer d.room_of_individual _ _ _
  · exact nodeResetState_queuesBounded _
  · rename_i individual
    exact removed.placeReply (d.room_of_individual individual) rfl .resetReply

/-- What the last-reply store answers is an individually addressed request, with the reply that it holds. -/
theorem storeHit_some {r : Request} {s : State} {reply : Message} (h : storeHit r s = some reply) :
    r.addressing = .individual ∧ ∃ e, s.executor.lastReply = some e ∧ e.reply = reply := by
  unfold storeHit at h
  split at h
  · rename_i e he
    split at h
    · rename_i hit
      exact ⟨hit.1, e, he, Option.some.inj h⟩
    · cases h
  · cases h

/-- R94, R102: a stored reply is a REPLY, and finds the room that the request has waited for. -/
theorem answerFromStore_queuesBounded {s : State} (h : QueuesBounded s) {r : Request} {rest : List Request}
    (d : Dealt s r rest) : QueuesBounded (answerFromStore r (s.removed rest)) := by
  have removed := d.removed_bounded h
  unfold answerFromStore
  split
  · rename_i reply hit
    obtain ⟨individual, e, he, rfl⟩ := storeHit_some hit
    rw [queuesBounded_iff] at removed ⊢
    obtain ⟨requests, queue, store⟩ := removed
    exact ⟨requests, queue.join (d.room_of_individual individual)
      (show (e.reply.kind == kindNotice) = false by rw [store e he]; rfl), store⟩
  · exact removed

/-- R153: a build adds its NOTICE to a queue that holds none. -/
theorem QueuesBounded.notice {s : State} (h : QueuesBounded s) : QueuesBounded (buildNotice s) := by
  unfold buildNotice
  split
  · rename_i due
    rw [queuesBounded_iff] at h
    obtain ⟨requests, queue, store⟩ := h
    simp only [State.noticeDue, Bool.and_eq_true] at due
    obtain ⟨-, noNotice⟩ := due
    exact queuesBounded_iff.2
      ⟨requests, queue.joinNotice noNotice (show (kindNotice == kindNotice) = true from rfl), store⟩
  · exact h

/-- R172: a posted message is queued where it finds room. -/
theorem QueuesBounded.relayIn {s : State} (h : QueuesBounded s) : QueuesBounded (queueRelayIn s) := by
  unfold queueRelayIn
  split
  · split
    · rename_i due
      obtain ⟨-, -, room⟩ := due
      rw [queuesBounded_iff] at h
      obtain ⟨requests, queue, store⟩ := h
      exact queuesBounded_iff.2
        ⟨requests, queue.join (s.hasRoom_iff.1 room) (show (kindRelayIn == kindNotice) = false from rfl), store⟩
    · exact h
  · exact h

/-- R87: assembly admits no fifth request. -/
theorem QueuesBounded.assemble {s : State} (h : QueuesBounded s) (c : Chunk) : QueuesBounded (assembleChunk c s) := by
  obtain ⟨_, _, e, few⟩ := assembleChunk_frame c s
  obtain ⟨requests, rest⟩ := h
  rw [e]
  exact ⟨few requests, rest⟩

/-- R174: a withdrawal takes messages out of the queue and adds none. -/
theorem QueuesBounded.withdrawInward {s : State} (h : QueuesBounded s) (a : List Byte) :
    QueuesBounded (localWithdrawInward a s).1 := by
  unfold localWithdrawInward
  split
  · exact h
  · exact h
  · rw [queuesBounded_iff] at h
    obtain ⟨requests, queue, store⟩ := h
    exact queuesBounded_iff.2 ⟨requests, queue.sublist List.filter_sublist, store⟩
  · exact h

/-! ### The end of an emission (R149) -/

/-- What a report that applies no node reset does to the queue, the numbers and the relay boxes. -/
def ReportFrame (s t : State) : Prop :=
  ∃ inbound relay port, t = { s with inbound := inbound, relay := relay, port := port } ∧
    inbound.queue.Sublist s.inbound.queue ∧ inbound.noticeNumber = s.inbound.noticeNumber ∧
    (relay = s.relay ∨ relay = { s.relay with inward := .empty })

/-- R149: the end of an emission takes the oldest message out of the queue at most, or applies a node reset. -/
theorem endEmission_cases (source : EmissionSource) (s : State) :
    ReportFrame s (endEmission source s) ∨
      ∃ u, u.executor.address = s.executor.address ∧ endEmission source s = nodeResetState u := by
  unfold endEmission
  split
  · exact .inl ⟨_, _, _, rfl, .refl _, rfl, .inl rfl⟩
  · split
    · exact .inl ⟨_, _, _, rfl, .refl _, rfl, .inl rfl⟩
    · rename_i e rest hq
      have shorter : rest.Sublist s.inbound.queue := hq ▸ List.sublist_cons_self e rest
      unfold emissionEffect
      split
      · exact .inl ⟨_, _, _, rfl, shorter, rfl, .inl rfl⟩
      · exact .inl ⟨_, _, _, rfl, shorter, rfl, .inr rfl⟩
      · split
        · exact .inr ⟨{ s with inbound := { s.inbound with queue := rest, emission := none } }, rfl, rfl⟩
        · exact .inl ⟨_, _, _, rfl, shorter, rfl, .inl rfl⟩

theorem emissionReport_frame (c : Chunk) (s : State) :
    ReportFrame s (emissionReport c s) ∨
      ∃ u, u.executor.address = s.executor.address ∧ emissionReport c s = nodeResetState u := by
  unfold emissionReport
  split
  · exact .inl ⟨_, _, _, rfl, .refl _, rfl, .inl rfl⟩
  · split
    · exact .inl ⟨_, _, _, rfl, .refl _, rfl, .inl rfl⟩
    · exact .inl ⟨_, _, _, rfl, .refl _, rfl, .inl rfl⟩
    · exact .inl ⟨_, _, _, rfl, .refl _, rfl, .inl rfl⟩
    all_goals exact endEmission_cases _ s

theorem QueuesBounded.report {s : State} (h : QueuesBounded s) (c : Chunk) : QueuesBounded (emissionReport c s) := by
  obtain ⟨_, _, _, e, shorter, -⟩ | ⟨_, -, e⟩ := emissionReport_frame c s <;> rw [e]
  · rw [queuesBounded_iff] at h
    obtain ⟨requests, queue, store⟩ := h
    exact queuesBounded_iff.2 ⟨requests, queue.sublist shorter, store⟩
  · exact nodeResetState_queuesBounded _

/-! ### The operations, queue by queue (O58) -/

/-- QueuesBounded reads the request queue, the outgoing queue and the last-reply store alone. -/
theorem QueuesBounded.of_eq {s t : State} (h : QueuesBounded s) (receiver : t.receiver = s.receiver)
    (queue : t.inbound.queue = s.inbound.queue) (executor : t.executor = s.executor) : QueuesBounded t := by
  rw [queuesBounded_iff, receiver, queue, executor]
  exact queuesBounded_iff.1 h

theorem BoundaryFrame.queuesBounded {s t : State} (f : BoundaryFrame s t) (h : QueuesBounded s) : QueuesBounded t := by
  obtain ⟨_, _, _, _, _, rfl⟩ := f
  exact h

theorem ReceptionFrame.queuesBounded {s t : State} (f : ReceptionFrame s t) (h : QueuesBounded s) :
    QueuesBounded t := by
  obtain ⟨_, _, _, _, _, _, rfl⟩ := f
  exact h

theorem QueuesBounded.slots {s : State} (h : QueuesBounded s) (plan : Plan) (slots : Slots) :
    QueuesBounded (slotEffects plan slots s) := by
  obtain ⟨_, _, -, e⟩ := slotEffects_frame plan slots s
  rw [e]
  exact h

theorem QueuesBounded.arbitrate {s : State} (h : QueuesBounded s) : QueuesBounded (arbitrate s).2 := by
  obtain ⟨_, _, _, _, _, e⟩ := arbitrate_frame s
  rw [e]
  exact h

theorem QueuesBounded.tailMiss {s : State} (h : QueuesBounded s) :
    QueuesBounded { s with inbound := s.inbound.tailMiss } := by
  obtain ⟨_, _, e⟩ := s.inbound.tailMiss_frame
  rw [e]
  exact h

theorem QueuesBounded.readOutward {s : State} (h : QueuesBounded s) (a : List Byte) :
    QueuesBounded (localReadOutward a s).1 := by
  unfold localReadOutward
  split <;> exact h

/-- Every operation that the commands are made of keeps the queues within their bounds; a message joins where the queue
has room for it (R94, R95, R153, R172). -/
theorem queuesBounded_keptByOperations : KeptByOperations QueuesBounded where
  outside _ _ _ _ _ _ _ _ h := h
  deviceReset _ _ := queuesBounded_reset.of_eq rfl rfl rfl
  nodeReset s _ := nodeResetState_queuesBounded s
  changeover n s h := (changeoverCheck_frame n s).queuesBounded h
  refresh s h := (refreshCompletion_frame s).queuesBounded h
  relayBoundary n s h := (relayBoundary_frame n s).queuesBounded h
  exchange _ h := h
  slots plan slots _ h := h.slots plan slots
  assemble c _ h := h.assemble c
  select _ _ h := h
  receive c s h := (inboundReceive_frame c s).queuesBounded h
  arbitrate _ h := h.arbitrate
  tailMiss _ h := h.tailMiss
  word _ _ _ h := h
  report c _ h := h.report c
  notice _ h := h.notice
  relayIn _ h := h.relayIn
  readOutward _ h := h.readOutward []
  postInward _ _ h _ _ _ := h
  withdrawInward _ h := h.withdrawInward []
  waiting _ h _ := h
  request _ _ _ _ h d hk _ := execute_queuesBounded h d hk
  resetNode _ _ _ h d := executeResetNode_queuesBounded h d
  unknownKind _ _ _ h d := (d.removed_bounded h).answer d.room_of_individual _ _ _
  stored _ _ _ h d _ := answerFromStore_queuesBounded h d

/-! ### The ranges of the numbers (R152, R165, R169, R171, R172) -/

/-- R169: a held message has 1 to 120 bytes and a countdown of 1 to 255, if it has one. -/
def OutwardMessage.InRange (box : OutwardMessage) : Prop :=
  1 ≤ box.payload.length ∧ box.payload.length ≤ 120 ∧ box.countdown ≠ some 0

/-- R171: a payload in the inward box has 1 to 120 bytes. -/
def InwardBox.InRange (box : InwardBox) : Prop :=
  ∀ p, box = .posted p ∨ box = .queued p ∨ box = .sending p → 1 ≤ p.length ∧ p.length ≤ 120

/-- The part of NumbersInRange that speaks of the relay unit. -/
def RelayUnit.InRange (u : RelayUnit) : Prop :=
  u.relayInNumber ≠ 0 ∧ (∀ box, u.outward = some box → box.InRange) ∧ u.inward.InRange

theorem numbersInRange_iff {s : State} :
    NumbersInRange s ↔ s.executor.address.toNat ≤ 62 ∧ s.inbound.noticeNumber ≠ 0 ∧ s.relay.InRange :=
  Iff.rfl

theorem InwardBox.inRange_empty : InwardBox.InRange .empty := by
  rintro _ (h | h | h) <;> cases h

/-- The inward box keeps to its range with any payload that is in range, wherever the payload stands. -/
theorem InwardBox.inRange_of_payload {p : List Byte} (h : 1 ≤ p.length ∧ p.length ≤ 120) :
    InwardBox.InRange (.posted p) ∧ InwardBox.InRange (.queued p) ∧ InwardBox.InRange (.sending p) := by
  refine ⟨?_, ?_, ?_⟩ <;> rintro q (e | e | e) <;> cases e <;> exact h

theorem RelayUnit.InRange.withInward {u : RelayUnit} (h : u.InRange) {box : InwardBox} (hb : box.InRange) :
    RelayUnit.InRange { u with inward := box } := by
  obtain ⟨number, outward, -⟩ := h
  exact ⟨number, outward, hb⟩

theorem RelayUnit.InRange.withOutward {u : RelayUnit} (h : u.InRange) {box : Option OutwardMessage}
    (hb : ∀ b, box = some b → b.InRange) : RelayUnit.InRange { u with outward := box } := by
  obtain ⟨number, -, inward⟩ := h
  exact ⟨number, hb, inward⟩

theorem RelayUnit.InRange.emptied {u : RelayUnit} (h : u.InRange) : RelayUnit.InRange { u with outward := none } :=
  h.withOutward fun _ e => nomatch e

/-- R152, R172: the numbering leaves out 0. -/
theorem nextNumber_ne_zero (n : Byte) : nextNumber n ≠ 0 := by
  unfold nextNumber
  split
  · decide
  · bv_omega

/-- NumbersInRange stays true where the notice number and the relay unit stay as they were. -/
theorem NumbersInRange.of_eq {s t : State} (h : NumbersInRange s) (address : t.executor.address = s.executor.address)
    (number : t.inbound.noticeNumber = s.inbound.noticeNumber) (relay : t.relay = s.relay) : NumbersInRange t := by
  rw [numbersInRange_iff, address, number, relay]
  exact h

/-- NumbersInRange stays true where the relay unit alone is worked, within its range. -/
theorem NumbersInRange.withRelay {s t : State} (h : NumbersInRange s) (relay : t.relay.InRange)
    (address : t.executor.address = s.executor.address) (number : t.inbound.noticeNumber = s.inbound.noticeNumber) :
    NumbersInRange t := by
  rw [numbersInRange_iff, address, number]
  obtain ⟨inRange, notZero, -⟩ := h
  exact ⟨inRange, notZero, relay⟩

/-- R105, R165: a node reset keeps the node address alone. -/
theorem nodeResetState_numbersInRange {s : State} (address : s.executor.address.toNat ≤ 62) :
    NumbersInRange (nodeResetState s) := by
  obtain ⟨-, number, relay⟩ := numbersInRange_iff.1 numbersInRange_reset
  exact ⟨address, number, relay⟩

/-- R169: a countdown of 2 or more is not at 0 after one boundary. -/
theorem NumbersInRange.boundary {s : State} (h : NumbersInRange s) (n : Superframe) :
    NumbersInRange (relayBoundary n s) := by
  have ⟨_, _, relay⟩ := numbersInRange_iff.1 h
  obtain e | ⟨box, c, held, -, more, e⟩ | ⟨_, _, -, -, -, e⟩ := relayBoundary_cases n s <;> rw [e]
  · exact h
  · have ⟨_, outward, _⟩ := relay
    obtain ⟨least, most, -⟩ := outward box held
    refine h.withRelay (relay.withOutward fun b hb => ?_) rfl rfl
    cases hb
    exact ⟨least, most, fun zero => absurd (Option.some.inj zero) (by bv_omega)⟩
  · exact h.withRelay relay.emptied rfl rfl

/-- R173: the arbiter moves a queued payload on and makes none. -/
theorem startOwn_inRange {s : State} (relay : s.relay.InRange) (e : OutEntry) : (startOwn e s).2.relay.InRange := by
  unfold startOwn
  simp only
  split
  · rename_i p _ queued
    have ⟨_, _, inward⟩ := relay
    have ⟨_, _, sending⟩ := InwardBox.inRange_of_payload (inward p (.inr (.inl queued)))
    exact relay.withInward sending
  · exact relay

theorem NumbersInRange.arbitrate {s : State} (h : NumbersInRange s) : NumbersInRange (arbitrate s).2 := by
  obtain e | ⟨_, _, -, -, -, e⟩ | ⟨_, _, -, -, e⟩ | ⟨x, _, -, -, e⟩ := arbitrate_cases s <;> rw [e]
  · exact h
  · exact h
  · exact h
  · have ⟨_, _, relay⟩ := numbersInRange_iff.1 h
    exact h.withRelay (startOwn_inRange relay x) rfl rfl

theorem NumbersInRange.report {s : State} (h : NumbersInRange s) (c : Chunk) : NumbersInRange (emissionReport c s) := by
  have ⟨address, _, relay⟩ := numbersInRange_iff.1 h
  obtain ⟨_, _, _, e, -, number, rfl | rfl⟩ | ⟨u, kept, e⟩ := emissionReport_frame c s <;> rw [e]
  · exact h.withRelay relay rfl number
  · exact h.withRelay (relay.withInward InwardBox.inRange_empty) rfl number
  · exact nodeResetState_numbersInRange (kept ▸ address)

theorem NumbersInRange.notice {s : State} (h : NumbersInRange s) : NumbersInRange (buildNotice s) := by
  obtain ⟨address, -, relay⟩ := numbersInRange_iff.1 h
  unfold buildNotice
  split
  · exact ⟨address, nextNumber_ne_zero _, relay⟩
  · exact h

theorem NumbersInRange.relayIn {s : State} (h : NumbersInRange s) : NumbersInRange (queueRelayIn s) := by
  have ⟨_, _, _, outward, inward⟩ := numbersInRange_iff.1 h
  unfold queueRelayIn
  split
  · rename_i p posted
    split
    · have ⟨_, queued, _⟩ := InwardBox.inRange_of_payload (inward p (.inl posted))
      exact h.withRelay ⟨nextNumber_ne_zero _, outward, queued⟩ rfl rfl
    · exact h
  · exact h

theorem NumbersInRange.readOutward {s : State} (h : NumbersInRange s) (a : List Byte) :
    NumbersInRange (localReadOutward a s).1 := by
  have ⟨_, _, relay⟩ := numbersInRange_iff.1 h
  unfold localReadOutward
  split
  · exact h.withRelay relay.emptied rfl rfl
  · exact h

theorem NumbersInRange.withdrawInward {s : State} (h : NumbersInRange s) (a : List Byte) :
    NumbersInRange (localWithdrawInward a s).1 := by
  have ⟨_, _, relay⟩ := numbersInRange_iff.1 h
  have emptied := relay.withInward InwardBox.inRange_empty
  unfold localWithdrawInward
  split
  · exact h
  · exact h.withRelay emptied rfl rfl
  · exact h.withRelay emptied rfl rfl
  · exact h

/-! ### The requests, number by number -/

theorem NumbersInRange.placeReply {s : State} (h : NumbersInRange s) (r : Request) (reply : Message) (link : OutLink) :
    NumbersInRange (placeReply r reply link s) := by
  unfold Sys2Proof.Machine.placeReply
  simp only
  split <;> exact h

theorem NumbersInRange.answer {s : State} (h : NumbersInRange s) (source : Byte) (r : Request) (status : Status)
    (data : List Byte) : NumbersInRange (answer source r status data s) := by
  unfold Sys2Proof.Machine.answer
  split
  · exact h.placeReply ..
  · exact h

/-- R112, R124, R126: the effect of a request sets the node address and fills the outward box within their ranges. -/
theorem OwnFrame.numbersInRange {r : Request} {s t : State} (f : OwnFrame r s t) (h : NumbersInRange s) :
    NumbersInRange t := by
  have ⟨inRange, number, relay⟩ := numbersInRange_iff.1 h
  obtain ⟨_, _, _, _, _, _, _, _, _, _, _, _, _, _, rfl, -, -, placed, filled, -, -, address⟩ := f
  refine numbersInRange_iff.2 ⟨?_, ?_, relay.withOutward fun b hb => ?_⟩
  · obtain kept | fresh := address
    · exact kept ▸ inRange
    · exact fresh
  · obtain rfl | ⟨_, _, rfl⟩ | ⟨-, -, _, -, rfl⟩ := placed <;> exact number
  · obtain rfl | ⟨box, least, most, countdown, rfl⟩ := filled
    · obtain ⟨-, outward, -⟩ := relay
      exact outward b hb
    · cases hb
      exact ⟨least, most, countdown⟩

theorem execute_numbersInRange {s : State} (h : NumbersInRange s) {k : RequestKind} {r : Request}
    (hk : readKind r.kind = some k) : NumbersInRange (execute k k.own r s) := by
  obtain ⟨_, e⟩ | ⟨t, _, hg, ho, e⟩ := execute_cases k k.own r s <;> rw [e]
  · exact h.answer ..
  · exact ((own_frame k hk hg ho).numbersInRange h).answer ..

theorem executeResetNode_numbersInRange {s : State} (h : NumbersInRange s) (r : Request) :
    NumbersInRange (executeResetNode r s) := by
  unfold executeResetNode
  split
  · exact h.answer ..
  · obtain ⟨address, -⟩ := h
    exact nodeResetState_numbersInRange address
  · exact h.placeReply ..

theorem answerFromStore_numbersInRange {s : State} (h : NumbersInRange s) (r : Request) :
    NumbersInRange (answerFromStore r s) := by
  unfold answerFromStore
  split <;> exact h

/-! ### The operations, number by number (O58) -/

theorem NumbersInRange.changeover {s : State} (h : NumbersInRange s) (n : Superframe) :
    NumbersInRange (changeoverCheck n s) := by
  obtain e | ⟨_, -, -, -, e⟩ := changeoverCheck_cases n s <;> rw [e] <;> exact h

theorem NumbersInRange.refresh {s : State} (h : NumbersInRange s) : NumbersInRange (refreshCompletion s) := by
  obtain e | ⟨-, e⟩ := refreshCompletion_cases s <;> rw [e] <;> exact h

theorem NumbersInRange.slots {s : State} (h : NumbersInRange s) (plan : Plan) (slots : Slots) :
    NumbersInRange (slotEffects plan slots s) := by
  obtain ⟨_, _, -, e⟩ := slotEffects_frame plan slots s
  rw [e]
  exact h

theorem NumbersInRange.assemble {s : State} (h : NumbersInRange s) (c : Chunk) :
    NumbersInRange (assembleChunk c s) := by
  obtain ⟨_, _, e, -⟩ := assembleChunk_frame c s
  rw [e]
  exact h

theorem NumbersInRange.receive {s : State} (h : NumbersInRange s) (c : Chunk) :
    NumbersInRange (inboundReceive c s) := by
  obtain ⟨_, _, _, _, _, _, e⟩ := inboundReceive_frame c s
  rw [e]
  exact h

theorem NumbersInRange.tailMiss {s : State} (h : NumbersInRange s) :
    NumbersInRange { s with inbound := s.inbound.tailMiss } := by
  obtain ⟨_, _, e⟩ := s.inbound.tailMiss_frame
  rw [e]
  exact h

/-- Every operation that the commands are made of keeps the numbers in their ranges. -/
theorem numbersInRange_keptByOperations : KeptByOperations NumbersInRange where
  outside _ _ _ _ _ _ _ _ h := h
  deviceReset _ _ := numbersInRange_reset.of_eq rfl rfl rfl
  nodeReset _ h :=
    have ⟨address, _⟩ := numbersInRange_iff.1 h
    nodeResetState_numbersInRange address
  changeover n _ h := h.changeover n
  refresh _ h := h.refresh
  relayBoundary n _ h := h.boundary n
  exchange _ h := h
  slots plan slots _ h := h.slots plan slots
  assemble c _ h := h.assemble c
  select _ _ h := h
  receive c _ h := h.receive c
  arbitrate _ h := h.arbitrate
  tailMiss _ h := h.tailMiss
  word _ _ _ h := h
  report c _ h := h.report c
  notice _ h := h.notice
  relayIn _ h := h.relayIn
  readOutward _ h := h.readOutward []
  postInward _ _ h _ least most :=
    have ⟨_, _, relay⟩ := numbersInRange_iff.1 h
    have ⟨posted, _⟩ := InwardBox.inRange_of_payload ⟨least, most⟩
    h.withRelay (relay.withInward posted) rfl rfl
  withdrawInward _ h := h.withdrawInward []
  waiting _ h _ := h
  request _ s _ rest h _ hk _ := execute_numbersInRange (s := s.removed rest) h hk
  resetNode s r rest h _ := executeResetNode_numbersInRange (s := s.removed rest) h r
  unknownKind s _ rest h _ := NumbersInRange.answer (s := s.removed rest) h ..
  stored s r rest h _ _ := answerFromStore_numbersInRange (s := s.removed rest) h r

/-- Settles O58, by the induction over the operations (`KeptByOperations.step`) for each of the two invariants. -/
theorem stepKeepsBoundsOfQueuesAndNumbers : Obligations.StepKeepsBoundsOfQueuesAndNumbers := by
  unfold Obligations.StepKeepsBoundsOfQueuesAndNumbers
  intro s t queues numbers hs
  exact ⟨queuesBounded_keptByOperations.step (fun _ _ g => g) queues hs,
    numbersInRange_keptByOperations.step (fun _ _ g => g) numbers hs⟩

end Sys2Proof.Machine
end

section
/-! PROOFS. The service receiver: the assembly of messages, their acceptance, and the admission of requests (R77 to
R88). -/

namespace Sys2Proof.Machine

open Sys2Proof.Claims

/-! ### The bytes of a message read back from its chunks (R77, R146, R190) -/

theorem readTwo_bytes (x : BitVec 16) : readTwo (x.extractLsb' 8 8) (x.extractLsb' 0 8) = x := by
  rw [readTwo, BitVec.extractLsb'_append_extractLsb'_eq_extractLsb' (show 8 = 0 + 8 from rfl),
    BitVec.extractLsb'_eq_self]

/-- Bytes past the end read 00H. -/
theorem map_byteAt_range (bytes : List Byte) (padding : Nat) :
    (List.range (bytes.length + padding)).map (byteAt bytes) = bytes ++ List.replicate padding 0 := by
  refine List.ext_getElem (by simp) fun i hi hi' => ?_
  rw [List.getElem_map, List.getElem_range, byteAt]
  by_cases inside : i < bytes.length
  · rw [List.getElem_append_left inside, List.getD_eq_getElem _ _ inside]
  · rw [List.getElem_append_right (by omega), List.getElem_replicate, List.getD_eq_default _ _ (by omega)]

theorem Message.chunk_content (m : Message) (k : Nat) :
    (m.chunk k).content.toList = (List.range 8).map fun j => byteAt m.bytes (8 * k + j) :=
  rfl

/-- The content bytes of the first n chunks of a message. -/
def Message.carried (m : Message) (n : Nat) : List Byte :=
  (List.range (8 * n)).map (byteAt m.bytes)

theorem Message.carried_succ (m : Message) (n : Nat) :
    m.carried (n + 1) = m.carried n ++ (m.chunk n).content.toList := by
  rw [Message.carried, Nat.mul_succ, List.range_add, List.map_append, List.map_map, m.chunk_content]
  rfl

theorem Message.carried_one (m : Message) : m.carried 1 = (m.chunk 0).content.toList :=
  m.carried_succ 0

theorem Message.body_length (m : Message) : m.body.length = 5 + m.payload.length := by
  rw [Message.body, List.length_append]
  rfl

theorem Message.bytes_length (m : Message) : m.bytes.length = 7 + m.payload.length := by
  rw [Message.bytes, List.length_append, m.body_length]
  show 5 + m.payload.length + 2 = _
  omega

theorem chunkCount_eq (length : Nat) : chunkCount length = (length + 14) / 8 := by
  unfold chunkCount
  congr 1
  omega

theorem Message.chunks_eq (m : Message) : m.chunks = (m.payload.length + 14) / 8 :=
  chunkCount_eq _

/-- R77: the chunks of a message carry its bytes and padding. -/
theorem Message.carried_chunks (m : Message) : ∃ padding, m.carried m.chunks = m.bytes ++ padding := by
  refine ⟨List.replicate (8 * m.chunks - m.bytes.length) 0, ?_⟩
  have enough : m.bytes.length ≤ 8 * m.chunks := by
    rw [m.bytes_length, m.chunks_eq]
    omega
  rw [← map_byteAt_range, Nat.add_sub_cancel' enough]
  rfl

/-- R77: a message reads back from its bytes, whatever the padding. -/
theorem readMessage_bytes (m : Message) (short : m.payload.length < 256) (padding : List Byte) :
    readMessage (m.bytes ++ padding) = m := by
  have layout : m.bytes ++ padding =
      m.destination :: m.source :: m.kind :: m.sequence :: byteOf m.payload.length ::
        (m.payload ++ (twoBytes m.check ++ padding)) := by
    simp [Message.bytes, Message.body]
  have check (i : Nat) : byteAt (m.bytes ++ padding) (5 + m.payload.length + i) =
      byteAt (twoBytes m.check ++ padding) i := by
    rw [byteAt, byteAt, Message.bytes, List.append_assoc, List.getD_append_right _ _ _ _ (by rw [m.body_length]; omega),
      m.body_length, Nat.add_sub_cancel_left]
  have length : (byteAt (m.bytes ++ padding) 4).toNat = m.payload.length := by
    rw [layout]
    exact byteOf_toNat short
  have payload : ((m.bytes ++ padding).drop 5).take m.payload.length = m.payload := by
    rw [layout]
    exact List.take_left
  have value : readTwo (byteAt (m.bytes ++ padding) (5 + m.payload.length))
      (byteAt (m.bytes ++ padding) (6 + m.payload.length)) = m.check := by
    rw [show 6 + m.payload.length = 5 + m.payload.length + 1 by omega, check 1, ← Nat.add_zero (5 + _), check 0]
    exact readTwo_bytes m.check
  unfold readMessage
  simp only [length, payload, value]
  rw [layout]
  rfl

/-! ### What one chunk does to the assembler (R79 to R81) -/

@[simp] theorem readTag_code (t : Tag) : readTag t.code = t := by
  cases t <;> decide

theorem readTag_of_readAsIdle {tag : Byte} (h : ReadAsIdle tag) : readTag tag = .idle := by
  obtain rfl | h := h
  · rfl
  · unfold readTag
    rw [if_neg (by bv_omega), if_neg (by bv_omega), if_neg (by bv_omega), if_neg (by bv_omega)]

section

variable {c : Chunk} {s : State}

/-- A chunk that completes no message moves the assembler and counts its errors. -/
theorem assembleChunk_incomplete {next : Assembler} {sequenceError lengthError : Bool}
    (h : s.receiver.assembler.take c =
      { next := next, sequenceError := sequenceError, lengthError := lengthError, complete := none }) :
    assembleChunk c s = { s with receiver := { s.receiver with
      assembler := next
      sequenceErrors := if sequenceError then bump s.receiver.sequenceErrors else s.receiver.sequenceErrors
      lengthErrors := if lengthError then bump s.receiver.lengthErrors else s.receiver.lengthErrors } } := by
  unfold assembleChunk
  rw [h]

theorem assembleChunk_completes {bytes : List Byte} (h : s.receiver.assembler.take c =
      { next := .idle, sequenceError := false, lengthError := false, complete := some bytes }) :
    assembleChunk c s = completeMessage bytes { s with receiver := { s.receiver with assembler := .idle } } := by
  unfold assembleChunk
  rw [h]
  rfl

theorem assembleChunk_stores {next : Assembler} (h : s.receiver.assembler.take c =
      { next := next, sequenceError := false, lengthError := false, complete := none }) :
    assembleChunk c s = { s with receiver := { s.receiver with assembler := next } } :=
  assembleChunk_incomplete h

theorem assembleChunk_sequenceError (h : s.receiver.assembler.take c =
      { next := .idle, sequenceError := true, lengthError := false, complete := none }) :
    assembleChunk c s = { s with receiver :=
      { s.receiver with assembler := .idle, sequenceErrors := bump s.receiver.sequenceErrors } } :=
  assembleChunk_incomplete h

theorem assembleChunk_lengthError (h : s.receiver.assembler.take c =
      { next := .idle, sequenceError := false, lengthError := true, complete := none }) :
    assembleChunk c s = { s with receiver :=
      { s.receiver with assembler := .idle, lengthErrors := bump s.receiver.lengthErrors } } :=
  assembleChunk_incomplete h

theorem assembler_idle_kept (h : s.receiver.assembler = .idle) :
    { s with receiver := { s.receiver with assembler := .idle } } = s := by
  rw [← h]

/-- A chunk that begins a message, or tries to. -/
def Chunk.opens (c : Chunk) : Prop :=
  readTag c.tag = .first ∨ readTag c.tag = .only

theorem openMessage_sequenceError (only : Bool) (c : Chunk) : (openMessage only c).sequenceError = false := by
  unfold openMessage
  split <;> rfl

/-- R81: a chunk that opens is taken by an assembler in ASSEMBLING as by one in IDLE, with a sequence error more. -/
theorem assembler_take_opens (h : c.opens) (buffer : List Byte) (received expected : Nat) :
    (Assembler.assembling buffer received expected).take c =
        { Assembler.idle.take c with sequenceError := true } ∧
      (Assembler.idle.take c).sequenceError = false := by
  obtain h | h := h <;> simp [Assembler.take, assembleIdle, h, openMessage_sequenceError]

@[simp] theorem partialGivenUp_assembler (s : State) : (partialGivenUp s).receiver.assembler = .idle := by
  unfold partialGivenUp
  split
  · assumption
  · rfl

@[simp] theorem partialGivenUp_executor (s : State) : (partialGivenUp s).executor = s.executor := by
  unfold partialGivenUp
  split <;> rfl

/-- R81: a chunk that opens first gives up the message that was being assembled. -/
theorem assembleChunk_opens (h : c.opens) (s : State) :
    assembleChunk c s = assembleChunk c (partialGivenUp s) := by
  unfold partialGivenUp
  split
  · rfl
  · rename_i buffer received expected assembling
    obtain ⟨take, noError⟩ := assembler_take_opens h buffer received expected
    unfold assembleChunk
    simp only [assembling, take, noError]
    rfl

/-- R79, R81: FIRST with a length of 2 to 120 begins a message. -/
theorem assembleChunk_first (tag : c.tag = Tag.first.code) (least : 2 ≤ c.announcedLength)
    (most : c.announcedLength ≤ 120) (s : State) :
    assembleChunk c s = { partialGivenUp s with receiver := { (partialGivenUp s).receiver with
      assembler := .assembling c.content.toList 1 (chunkCount c.announcedLength) } } := by
  have read : readTag c.tag = .first := by rw [tag, readTag_code]
  rw [assembleChunk_opens (.inl read)]
  apply assembleChunk_stores
  simp [Assembler.take, assembleIdle, read, openMessage, openingOf, least, most]

/-- R79, R81: ONLY with a length of 0 or 1 is a whole message. -/
theorem assembleChunk_only (tag : c.tag = Tag.only.code) (short : c.announcedLength ≤ 1) (s : State) :
    assembleChunk c s = completeMessage c.content.toList (partialGivenUp s) := by
  have read : readTag c.tag = .only := by rw [tag, readTag_code]
  have idle := partialGivenUp_assembler s
  rw [assembleChunk_opens (.inr read)]
  refine (assembleChunk_completes (bytes := c.content.toList) ?_).trans (by rw [assembler_idle_kept idle])
  simp [Assembler.take, assembleIdle, read, openMessage, openingOf, short]

/-- R79, R81: a chunk that opens with a length that does not fit its tag. -/
theorem assembleChunk_misfit (h : Misfit c) (s : State) :
    assembleChunk c s = { partialGivenUp s with receiver := { (partialGivenUp s).receiver with
      assembler := .idle, lengthErrors := bump (partialGivenUp s).receiver.lengthErrors } } := by
  have announced : c.announcedLength = c.content[4].toNat := rfl
  obtain ⟨tag, length⟩ | ⟨tag, length⟩ := h
  · have read : readTag c.tag = .only := by rw [tag]; rfl
    have long : ¬c.announcedLength ≤ 1 := by omega
    rw [assembleChunk_opens (.inr read)]
    apply assembleChunk_lengthError
    simp [Assembler.take, assembleIdle, read, openMessage, openingOf, long]
  · have read : readTag c.tag = .first := by rw [tag]; rfl
    have unfit : ¬(2 ≤ c.announcedLength ∧ c.announcedLength ≤ 120) := by omega
    rw [assembleChunk_opens (.inl read)]
    apply assembleChunk_lengthError
    simp only [Assembler.take, partialGivenUp_assembler, assembleIdle, read, openMessage, openingOf, if_neg unfit,
      Bool.false_eq_true, if_false]

/-- R81: a chunk that an assembler in IDLE takes without opening. -/
theorem assembleChunk_inIdle (idle : s.receiver.assembler = .idle) :
    (ReadAsIdle c.tag → assembleChunk c s = s) ∧
    (c.tag = 0x02 ∨ c.tag = 0x03 → assembleChunk c s = { s with receiver :=
      { s.receiver with assembler := .idle, sequenceErrors := bump s.receiver.sequenceErrors } }) := by
  refine ⟨fun tag => ?_, fun tag => ?_⟩
  · have read := readTag_of_readAsIdle tag
    exact (assembleChunk_stores (next := .idle) (by simp [idle, Assembler.take, assembleIdle, read])).trans
      (assembler_idle_kept idle)
  · apply assembleChunk_sequenceError
    obtain tag | tag := tag <;> simp [idle, Assembler.take, assembleIdle, tag, readTag]

variable {buffer : List Byte} {received expected : Nat}

/-- R81: an IDLE chunk breaks the order of a message. -/
theorem assembleChunk_broken (assembling : s.receiver.assembler = .assembling buffer received expected)
    (tag : ReadAsIdle c.tag) : assembleChunk c s = { s with receiver :=
      { s.receiver with assembler := .idle, sequenceErrors := bump s.receiver.sequenceErrors } } :=
  assembleChunk_sequenceError (by simp [assembling, Assembler.take, readTag_of_readAsIdle tag])

/-- R80: a MIDDLE chunk that is not the last. -/
theorem assembleChunk_middle (assembling : s.receiver.assembler = .assembling buffer received expected)
    (tag : c.tag = Tag.middle.code) (more : received + 1 < expected) :
    assembleChunk c s = { s with receiver := { s.receiver with
      assembler := .assembling (buffer ++ c.content.toList) (received + 1) expected } } :=
  assembleChunk_stores (by simp [assembling, Assembler.take, tag, more])

/-- R80: the LAST chunk at its place completes the message. -/
theorem assembleChunk_last (assembling : s.receiver.assembler = .assembling buffer received expected)
    (tag : c.tag = Tag.last.code) (last : received + 1 = expected) :
    assembleChunk c s = completeMessage (buffer ++ c.content.toList)
      { s with receiver := { s.receiver with assembler := .idle } } :=
  assembleChunk_completes (by simp [assembling, Assembler.take, tag, last])

/-- R80, R81: MIDDLE where the last chunk is due, and LAST anywhere else. -/
theorem assembleChunk_misplaced (assembling : s.receiver.assembler = .assembling buffer received expected)
    (h : (c.tag = Tag.middle.code ∧ expected ≤ received + 1) ∨ (c.tag = Tag.last.code ∧ received + 1 ≠ expected)) :
    assembleChunk c s = { s with receiver :=
      { s.receiver with assembler := .idle, lengthErrors := bump s.receiver.lengthErrors } } := by
  apply assembleChunk_lengthError
  obtain ⟨tag, due⟩ | ⟨tag, elsewhere⟩ := h
  · simp [assembling, Assembler.take, tag, Nat.not_lt.2 due]
  · simp [assembling, Assembler.take, tag, elsewhere]

end

/-! ### The chunks of a message, one after another (R77, R79, R80) -/

theorem Message.chunk_announcedLength (m : Message) (short : m.payload.length < 256) :
    (m.chunk 0).announcedLength = m.payload.length := by
  show (byteAt m.bytes 4).toNat = _
  rw [show byteAt m.bytes 4 = byteOf m.payload.length from rfl, byteOf_toNat short]

theorem Message.chunk_tag (m : Message) (k : Nat) : (m.chunk k).tag = (chunkTag m.chunks k).code :=
  rfl

section

variable {m : Message} {s : State}

/-- R79: while chunks are missing, the assembler holds the bytes carried so far. -/
theorem assembled_so_far (least : 2 ≤ m.payload.length) (most : m.payload.length ≤ 120) {k : Nat} (first : 1 ≤ k) :
    k < m.chunks →
      (List.range k).foldl (fun t j => assembleChunk (m.chunk j) t) s =
        { partialGivenUp s with receiver := { (partialGivenUp s).receiver with
          assembler := .assembling (m.carried k) k m.chunks } } := by
  have several : ¬m.chunks ≤ 1 := by rw [m.chunks_eq]; omega
  have announced := m.chunk_announcedLength (by omega)
  induction k, first using Nat.le_induction with
  | base =>
    intro _
    have tag : (m.chunk 0).tag = Tag.first.code := by rw [m.chunk_tag, chunkTag, if_neg several, if_pos rfl]
    rw [m.carried_one, Message.chunks, ← announced]
    exact assembleChunk_first tag (by omega) (by omega) s
  | succ k first ih =>
    intro more
    have tag : (m.chunk k).tag = Tag.middle.code := by
      rw [m.chunk_tag, chunkTag, if_neg several, if_neg (by omega), if_neg (by omega)]
    rw [List.range_succ, List.foldl_append, ih (by omega), m.carried_succ]
    exact assembleChunk_middle rfl tag more

/-- R79, R80: the chunks of a message complete it. -/
theorem assembled_completes (most : m.payload.length ≤ 120) :
    assembled m s = completeMessage (m.carried m.chunks) (partialGivenUp s) := by
  have announced := m.chunk_announcedLength (by omega)
  unfold assembled
  obtain short | least := Nat.lt_or_ge m.payload.length 2
  · have single : m.chunks = 1 := by rw [m.chunks_eq]; omega
    have tag : (m.chunk 0).tag = Tag.only.code := by rw [m.chunk_tag, chunkTag, if_pos single.le]
    rw [single, m.carried_one]
    exact assembleChunk_only tag (by omega) s
  · have several : 2 ≤ m.chunks := by rw [m.chunks_eq]; omega
    obtain ⟨k, last⟩ : ∃ k, m.chunks = k + 1 := ⟨m.chunks - 1, by omega⟩
    have tag : (m.chunk k).tag = Tag.last.code := by
      rw [m.chunk_tag, chunkTag, if_neg (by omega), if_neg (by omega), if_pos last.symm]
    rw [last, List.range_succ, List.foldl_append, assembled_so_far least most (by omega) (by omega), m.carried_succ]
    refine (assembleChunk_last rfl tag last.symm).trans ?_
    exact congrArg (completeMessage _) (assembler_idle_kept (partialGivenUp_assembler s))

end

/-! ### A complete message (R82, R84, R85) -/

section

variable {bytes : List Byte} {m : Message} {s : State}

theorem completeMessage_accepted (read : readMessage bytes = m) (intact : m.check = messageCheck m.body)
    {addressing : Addressing} (accepted : acceptance s.executor.address m.destination = some addressing) :
    completeMessage bytes s = admitRequest
      { addressing := addressing, kind := m.kind, sequence := m.sequence, payload := m.payload } s := by
  have good : m.intact = true := beq_iff_eq.2 intact.symm
  simp only [completeMessage, read, good, accepted, if_true]

theorem completeMessage_ignored (read : readMessage bytes = m) (intact : m.check = messageCheck m.body)
    (ignored : acceptance s.executor.address m.destination = none) : completeMessage bytes s = s := by
  have good : m.intact = true := beq_iff_eq.2 intact.symm
  simp only [completeMessage, read, good, ignored, if_true]

theorem completeMessage_checkError (read : readMessage bytes = m) (spoiled : m.check ≠ messageCheck m.body) :
    completeMessage bytes s =
      { s with receiver := { s.receiver with checkErrors := bump s.receiver.checkErrors } } := by
  have bad : ¬m.intact = true := fun good => spoiled (beq_iff_eq.1 good).symm
  simp only [completeMessage, read, if_neg bad]

end

theorem acceptance_broadcast (address : Byte) : acceptance address 63 = some .broadcast :=
  if_pos rfl

theorem acceptance_individual {address destination : Byte} (own : destination = address) (assigned : destination ≠ 0)
    (single : destination ≠ 63) : acceptance address destination = some .individual :=
  (if_neg single).trans (if_pos ⟨own, own ▸ assigned⟩)

theorem acceptance_none {address destination : Byte} (single : destination ≠ 63)
    (other : destination ≠ address ∨ destination = 0) : acceptance address destination = none := by
  refine (if_neg single).trans (if_neg ?_)
  rintro ⟨rfl, assigned⟩
  exact other.elim (fun h => h rfl) assigned

/-- Settles O25: a whole message by `assembled_completes` and its reading back (`readMessage_bytes`), and one chunk by
what the assembler does with it. -/
theorem messageChunksMakeRequest : Obligations.MessageChunksMakeRequest := by
  unfold Obligations.MessageChunksMakeRequest
  refine ⟨fun m s most => ?message, fun c s => ⟨assembleChunk_misfit (s := s), fun tag least most => ?first,
    assembleChunk_inIdle, fun buffer received expected assembling => ?assembling⟩⟩
  case message =>
    obtain ⟨padding, carried⟩ := m.carried_chunks
    have read : readMessage (m.carried m.chunks) = m := carried ▸ readMessage_bytes m (by omega) padding
    intro t ready
    have whole : t = completeMessage (m.carried m.chunks) ready := assembled_completes most
    have address : ready.executor.address = s.executor.address := by rw [partialGivenUp_executor]
    rw [whole]
    refine ⟨fun intact => ⟨fun all => ?_, fun own assigned single => ?_, fun single other => ?_⟩,
      completeMessage_checkError read⟩
    · exact completeMessage_accepted read intact (all ▸ acceptance_broadcast _)
    · exact completeMessage_accepted read intact (acceptance_individual (own.trans address.symm) assigned single)
    · exact completeMessage_ignored read intact (acceptance_none single (address ▸ other))
  case first =>
    have count : chunkCount c.announcedLength = (c.content[4].toNat + 14) / 8 := chunkCount_eq _
    rw [← count]
    exact assembleChunk_first tag least most s
  case assembling =>
    exact ⟨assembleChunk_broken assembling, assembleChunk_middle assembling,
      fun tag due => assembleChunk_misplaced assembling (.inl ⟨tag, due⟩),
      fun tag elsewhere => assembleChunk_misplaced assembling (.inr ⟨tag, elsewhere⟩)⟩

/-! ### The admission of a request (R86 to R88) -/

/-- R86: what makes a request a duplicate. -/
theorem isDuplicate_iff (waiting : List Request) (r : Request) :
    isDuplicate waiting r = true ↔ r.addressing = .individual ∧ r.sequence ≠ 0 ∧
      ∃ q ∈ waiting, q.addressing = .individual ∧ q.kind = r.kind ∧ q.sequence = r.sequence := by
  simp only [isDuplicate, Bool.and_eq_true, List.any_eq_true, beq_iff_eq, bne_iff_ne, and_assoc]

section

variable {r : Request} {s : State}

theorem admitRequest_duplicate (h : isDuplicate s.receiver.requests r = true) : admitRequest r s = s :=
  if_pos h

theorem admitRequest_joins (h : isDuplicate s.receiver.requests r ≠ true) (few : s.receiver.requests.length < 4) :
    admitRequest r s = { s with receiver := { s.receiver with requests := s.receiver.requests ++ [r] } } :=
  (if_neg h).trans (if_pos few)

theorem admitRequest_dropped (h : isDuplicate s.receiver.requests r ≠ true)
    (full : 4 ≤ s.receiver.requests.length) :
    admitRequest r s = { s with
      receiver := { s.receiver with requestsDropped := bump s.receiver.requestsDropped }
      notices := { s.notices with
        requestDropped := some { kind := r.kind, sequence := r.sequence, addressing := r.addressing } } } :=
  (if_neg h).trans (if_neg (Nat.not_lt.2 full))

end

/-- Settles O26: a duplicate, a request that finds room, and one that finds none (R86, R87, R88). -/
theorem requestAdmission : Obligations.RequestAdmission := by
  unfold Obligations.RequestAdmission
  intro r s
  have duplicate := isDuplicate_iff s.receiver.requests r
  exact ⟨fun h => admitRequest_duplicate (duplicate.2 h), fun h few => admitRequest_joins (mt duplicate.1 h) few,
    fun h full => admitRequest_dropped (mt duplicate.1 h) full⟩

end Sys2Proof.Machine
end

section
/-! PROOFS. The request executor: waiting for room, answers from the last-reply store, the general checks, RESET NODE
and WRITE SETTINGS (R92 to R104, R107, R135). -/

namespace Sys2Proof.Machine

open Sys2Proof.Claims

/-! ### The commands that take a request (R92) -/

/-- What the executor does with a request of a kind that it has taken. -/
def RequestKind.deal : RequestKind → Request → State → State
  | .resetNode => executeResetNode
  | k => execute k k.own

theorem exec_commandOf (k : RequestKind) (s : State) :
    exec (commandOf k) s = .next (takeOldest (rowOfKind (some k) s) k.deal s) := by
  cases k <;> rfl

theorem exec_unknownKindRequest (s : State) :
    exec .unknownKindRequest s = .next (takeOldest (rowOfKind none s) refuseUnknown s) := rfl

theorem exec_lastReplyAnswer (s : State) :
    exec .lastReplyAnswer s = .next (takeOldest (fun r => (storeHit r s).isSome) answerFromStore s) := rfl

/-- R92, R103: in RESET-WAIT no request is taken. -/
theorem takeOldest_resetWait {s : State} (h : s.executor.state = .resetWait) (row : Request → Bool)
    (deal : Request → State → State) : takeOldest row deal s = s := by
  unfold takeOldest
  split
  · rfl
  · exact if_pos (.inl h)

/-! ### Waiting for room (R94, R95) -/

theorem State.hasRoom_eq_false {s : State} (full : 5 ≤ s.nonNotices) : s.hasRoom = false := by
  rw [← Bool.not_eq_true, s.hasRoom_iff]
  omega

/-- R94: without room the store is not consulted, and a request belongs to the row of its Kind. -/
theorem rowOfKind_of_full {s : State} (full : 5 ≤ s.nonNotices) {k : Option RequestKind} {r : Request}
    (kind : readKind r.kind = k) : rowOfKind k s r = true := by
  simp [rowOfKind, State.hasRoom_eq_false full, kind]

theorem mustWait_of_individual {s : State} (full : 5 ≤ s.nonNotices) {r : Request}
    (individual : r.addressing = .individual) : mustWait r s = true := by
  simp [mustWait, individual, State.hasRoom_eq_false full]

/-- R94: an individually addressed request that finds room need not wait. -/
theorem mustWait_of_room {s : State} (room : s.nonNotices < 5) {r : Request}
    (individual : r.addressing = .individual) : mustWait r s = false := by
  simp [mustWait, individual, s.hasRoom_iff.2 room]

theorem mustWait_of_return {s : State} (full : 5 ≤ s.nonNotices) {r : Request} (broadcast : r.addressing = .broadcast)
    (placed : placesReturn r s = true) : mustWait r s = true := by
  simp [mustWait, broadcast, placed, State.hasRoom_eq_false full]

/-- R95: a ROLL CALL that reaches the tail places a return. -/
theorem placesReturn_rollCall {s : State} {r : Request} (kind : r.kind = 0x1A)
    (scope : r.payload = [0x00] ∨ r.payload = [0x01]) (tail : s.tailPort.lock ≠ .locked) :
    placesReturn r s = true := by
  have named : readKind r.kind = some .rollCall := kind ▸ readKind_code .rollCall
  have valid : lengthFits .rollCall r.payload = true ∧ rollCallScopeValid r = true := by
    unfold rollCallScopeValid
    rcases scope with scope | scope <;> rw [scope] <;> exact ⟨rfl, rfl⟩
  simp [placesReturn, named, valid, tail]

/-- An identity reads back from its six bytes. -/
theorem identityAt_sixBytes (x : Identity) (rest : List Byte) : identityAt (sixBytes x ++ rest) 0 = x := by
  have high : threeAt (sixBytes x ++ rest) 0 = x.extractLsb' 24 24 := by
    show readThree (x.extractLsb' 40 8) (x.extractLsb' 32 8) (x.extractLsb' 24 8) = _
    rw [readThree, BitVec.extractLsb'_append_extractLsb'_eq_extractLsb' (show 40 = 32 + 8 from rfl),
      BitVec.extractLsb'_append_extractLsb'_eq_extractLsb' (show 32 = 24 + 8 from rfl)]
  have low : threeAt (sixBytes x ++ rest) 3 = x.extractLsb' 0 24 := by
    show readThree (x.extractLsb' 16 8) (x.extractLsb' 8 8) (x.extractLsb' 0 8) = _
    rw [readThree, BitVec.extractLsb'_append_extractLsb'_eq_extractLsb' (show 16 = 8 + 8 from rfl),
      BitVec.extractLsb'_append_extractLsb'_eq_extractLsb' (show 8 = 0 + 8 from rfl)]
  rw [identityAt, high, low, BitVec.extractLsb'_append_extractLsb'_eq_extractLsb' (show 24 = 0 + 24 from rfl)]
  exact BitVec.extractLsb'_eq_self

/-- R95, R112: an ASSIGN that names this node places a return. -/
theorem placesReturn_assign {s : State} {r : Request} {address : Byte} (kind : r.kind = 0x11)
    (payload : r.payload = sixBytes s.identity ++ [address]) (least : 1 ≤ address.toNat) (most : address.toNat ≤ 62) :
    placesReturn r s = true := by
  have named : readKind r.kind = some .assign := kind ▸ readKind_code .assign
  have length : lengthFits .assign r.payload = true := by rw [payload]; rfl
  have last : byteAt r.payload 6 = address := by rw [payload]; rfl
  have names : assignNames r s = true := by
    rw [assignNames, last, payload, identityAt_sixBytes]
    simp [least, most]
  simp [placesReturn, named, length, names]

/-- Settles O28: RESET-WAIT by `takeOldest_resetWait`, and the waiting by the row of each request (`rowOfKind_of_full`)
and its need of room (`mustWait_of_individual`, `mustWait_of_return`). -/
theorem requestWaitsForRoom : Obligations.RequestWaitsForRoom := by
  unfold Obligations.RequestWaitsForRoom
  refine ⟨fun s waiting => ?resetWait, fun s r rest oldest taking full => ?full⟩
  case resetWait =>
    have none (row deal) := takeOldest_resetWait waiting row deal
    exact ⟨fun k => by rw [exec_commandOf, none], by rw [exec_unknownKindRequest, none],
      by rw [exec_lastReplyAnswer, none]⟩
  case full =>
    intro waits
    have individual (row : Request → Bool) (deal) (h : r.addressing = .individual) (hr : row r = true) :=
      takeOldest_waits deal oldest taking hr (mustWait_of_individual full h)
    have placing (k : RequestKind) (h : r.addressing = .broadcast) (kind : r.kind = k.code)
        (placed : placesReturn r s = true) : exec (commandOf k) s = waits := by
      rw [exec_commandOf, takeOldest_waits k.deal oldest taking
        (rowOfKind_of_full full (kind ▸ readKind_code k)) (mustWait_of_return full h placed)]
    refine ⟨fun k h kind => ?_, fun h unknown => ?_, fun e h numbered stored kind sequence => ?_,
      fun h kind scope tail => placing .rollCall h kind (placesReturn_rollCall kind scope tail),
      fun address h kind payload least most =>
        placing .assign h kind (placesReturn_assign kind payload least most)⟩
    · rw [exec_commandOf, individual _ _ h (rowOfKind_of_full full (kind ▸ readKind_code k))]
    · rw [exec_unknownKindRequest, individual _ _ h (rowOfKind_of_full full (readKind_eq_none unknown))]
    · rw [exec_lastReplyAnswer, individual _ _ h (by rw [storeHit_eq_some h numbered stored kind sequence]; rfl)]

/-! ### Answers from the last-reply store (R102) -/

/-- Settles O29: the command's row is what the store answers, and the answer is its reply, in the state that the request
has left. -/
theorem storedReplyAnswersRetry : Obligations.StoredReplyAnswersRetry := by
  unfold Obligations.StoredReplyAnswersRetry
  intro s r rest e oldest taking individual numbered stored kind sequence room
  have hit := storeHit_eq_some individual numbered stored kind sequence
  have later : storeHit r (s.removed rest) = some e.reply :=
    storeHit_eq_some (s := s.removed rest) individual numbered stored kind sequence
  rw [exec_lastReplyAnswer, takeOldest_deals _ oldest taking (by rw [hit]; rfl) (mustWait_of_room room individual),
    answerFromStore, later]
  rfl

/-! ### The general checks (R96 to R98) -/

theorem RequestKind.deal_eq_execute {k : RequestKind} (h : k ≠ .resetNode) : k.deal = execute k k.own := by
  cases k
  case resetNode => exact absurd rfl h
  all_goals rfl

/-- R97: a request that a general check turns away is answered with its status, and nothing of it is done. -/
theorem RequestKind.deal_refused {k : RequestKind} {r : Request} {status : Status}
    (h : generalCheck k r = some status) (s : State) : k.deal r s = answer s.executor.address r status [] s := by
  by_cases reset : k = .resetNode
  · subst reset
    rw [RequestKind.deal, executeResetNode, h]
  · rw [RequestKind.deal_eq_execute reset, execute, h]

/-- R102: the store does not answer a request that the executor takes. -/
theorem storeHit_of_takes {kind : Byte} {s : State} {r : Request} {rest : List Request} (h : Takes kind s r rest) :
    storeHit r s = none := by
  obtain ⟨-, -, -, room⟩ := h
  refine storeHit_eq_none fun individual numbered e held => ?_
  obtain ⟨-, notStored⟩ := room individual
  exact notStored numbered e held

section

variable {k : RequestKind} {s : State} {r : Request} {rest : List Request}

/-- The command of a kind deals with the request that the executor takes. -/
theorem exec_commandOf_of_takes (takes : Takes k.code s r rest) (ready : mustWait r s = false) :
    exec (commandOf k) s = .next (k.deal r (taken s rest)) := by
  have ⟨oldest, taking, _⟩ := takes
  rw [exec_commandOf, takeOldest_deals _ oldest taking (rowOfKind_of_takes takes) ready]
  rfl

/-- R97: a general check that turns a request away ends it with the status of the check and no effect. -/
theorem ends_of_check (takes : Takes k.code s r rest) (ready : mustWait r s = false) {status : Status}
    (check : generalCheck k r = some status) : Ends (commandOf k) s r status.code [] (taken s rest) := by
  apply ends_of_answer
  rw [exec_commandOf_of_takes takes ready, RequestKind.deal_refused check]
  rfl

/-- R98: a kind that is executed as broadcast alone is refused when individually addressed. -/
theorem generalCheck_misdirected (only : broadcastOnly k = true) (individual : r.addressing = .individual) :
    generalCheck k r = some .misdirected := by
  simp [generalCheck, individual, only]

/-- R96: a broadcast of a kind that answers is turned away. -/
theorem generalCheck_discarded (answers : allowsBroadcast k = false) (broadcast : r.addressing = .broadcast) :
    generalCheck k r = some .misdirected := by
  simp [generalCheck, broadcast, answers]

/-- R98: an individually addressed request whose length does not fit is refused. -/
theorem generalCheck_badLength (notOnly : broadcastOnly k = false) (individual : r.addressing = .individual)
    (misfit : lengthFits k r.payload = false) : generalCheck k r = some .badLength := by
  simp [generalCheck, individual, notOnly, misfit]

/-- R98: a broadcast whose length does not fit is turned away, whatever its kind. -/
theorem generalCheck_broadcast_misfit (broadcast : r.addressing = .broadcast)
    (misfit : lengthFits k r.payload = false) : ∃ status, generalCheck k r = some status := by
  cases answers : allowsBroadcast k <;> simp [generalCheck, broadcast, answers, misfit]

/-- R95: a request whose length does not fit places no ROLL-CALL RETURN. -/
theorem placesReturn_misfit (kind : r.kind = k.code) (misfit : lengthFits k r.payload = false) :
    placesReturn r s = false := by
  unfold placesReturn
  rw [kind, readKind_code]
  cases k <;> simp [misfit]

end

theorem broadcastOnly_iff (k : RequestKind) : broadcastOnly k = true ↔ k = .assign ∨ k = .rollCall := by
  cases k <;> simp [broadcastOnly]

theorem allowsBroadcast_eq_false_iff (k : RequestKind) : allowsBroadcast k = false ↔
    k = .readChannels ∨ k = .readCounters ∨ k = .readPlan ∨ k = .readStatus ∨ k = .relayOut ∨ k = .release := by
  cases k <;> simp [allowsBroadcast]

/-- R98: the length test is the one that the chapter's table of lengths gives. -/
theorem lengthFits_iff (k : RequestKind) (payload : List Byte) :
    lengthFits k payload = true ↔ LengthAllowed k payload := by
  cases k
  case writeChannels =>
    cases payload <;> simp [lengthFits, LengthAllowed, byteAt]
    omega
  case writePlan =>
    rcases payload with _ | ⟨a, _ | ⟨b, _ | ⟨c, l⟩⟩⟩ <;> simp [lengthFits, LengthAllowed, byteAt]
    omega
  all_goals simp [lengthFits, LengthAllowed]

/-- Settles O30: each clause is one general check that turns the request away (`ends_of_check`). -/
theorem generalChecksRefuse : Obligations.GeneralChecksRefuse := by
  unfold Obligations.GeneralChecksRefuse
  intro s r rest
  refine ⟨fun takes unknown => ?unknown, fun k only takes individual => ?misdirected,
    fun k takes notAllowed addressed => ?badLength, fun k answers takes broadcast => ?discarded⟩
  case unknown =>
    have noKind := readKind_eq_none unknown
    have ⟨oldest, taking, _⟩ := takes
    have ready := mustWait_of_takes takes (placesReturn_eq_false (by simp [noKind]) (by simp [noKind]))
    have row : rowOfKind none s r = true := by simp [rowOfKind, noKind, storeHit_of_takes takes]
    refine ends_of_answer (status := .unknownKind) ?_
    rw [exec_unknownKindRequest, takeOldest_deals _ oldest taking row ready]
    rfl
  case misdirected =>
    have ⟨_, _, _, room⟩ := takes
    obtain ⟨few, -⟩ := room individual
    exact ends_of_check takes (mustWait_of_room few individual)
      (generalCheck_misdirected ((broadcastOnly_iff k).2 only) individual)
  case badLength =>
    have misfit : lengthFits k r.payload = false := by
      rw [← Bool.not_eq_true, lengthFits_iff]
      exact notAllowed
    have ⟨_, _, kind, _⟩ := takes
    have ready := mustWait_of_takes takes (placesReturn_misfit kind misfit)
    cases addressing : r.addressing with
    | individual =>
      have notOnly : broadcastOnly k = false := by
        rw [← Bool.not_eq_true, broadcastOnly_iff, not_or]
        exact addressed addressing
      exact ends_of_check takes ready (generalCheck_badLength notOnly addressing misfit)
    | broadcast =>
      obtain ⟨_, check⟩ := generalCheck_broadcast_misfit addressing misfit
      obtain ⟨silent, -⟩ := ends_of_check takes ready check
      exact ⟨silent, fun individual => by rw [addressing] at individual; cases individual⟩
  case discarded =>
    have noReturn := placesReturn_of_takes takes (by constructor <;> rintro rfl <;> simp at answers)
    obtain ⟨silent, -⟩ := ends_of_check takes (mustWait_of_takes takes noReturn)
      (generalCheck_discarded ((allowsBroadcast_eq_false_iff k).2 answers) broadcast)
    exact silent broadcast

/-! ### RESET NODE (R103, R104) -/

/-- Settles O40: RESET NODE passes its checks, and is executed by its addressing. -/
theorem resetNodeAnswersThenWaits : Obligations.ResetNodeAnswersThenWaits := by
  unfold Obligations.ResetNodeAnswersThenWaits
  intro s r rest (takes : Takes RequestKind.resetNode.code s r rest) payload
  have ready := mustWait_of_takes takes (placesReturn_of_takes takes (by decide))
  have checked : generalCheck .resetNode r = none := generalCheck_eq_none rfl rfl (by rw [payload]; rfl)
  have dealt : exec .resetNode s = .next (executeResetNode r (taken s rest)) := exec_commandOf_of_takes takes ready
  rw [dealt, executeResetNode, checked]
  refine ⟨fun broadcast => by rw [broadcast]; rfl, fun individual => ?_⟩
  refine ⟨replyMessage s.executor.address r .ok [], ⟨rfl, rfl, rfl, rfl, rfl, buildMessage_check ..⟩, ?_⟩
  rw [individual]
  simp only [placeReply, withReply]
  split <;> rfl

/-! ### WRITE SETTINGS (R107, R135) -/

theorem readTwo_toNat (hi lo : Byte) : (readTwo hi lo).toNat = 256 * hi.toNat + lo.toNat := by
  rw [readTwo, BitVec.toNat_append, ← Nat.shiftLeft_add_eq_or_of_lt lo.isLt, Nat.shiftLeft_eq]
  omega

theorem twoBytes_readTwo (hi lo : Byte) : twoBytes (readTwo hi lo) = [hi, lo] := by
  have sum := readTwo_toNat hi lo
  have high : (readTwo hi lo).extractLsb' 8 8 = hi := by
    apply BitVec.eq_of_toNat_eq
    rw [BitVec.extractLsb'_toNat, sum, Nat.shiftRight_eq_div_pow]
    omega
  have low : (readTwo hi lo).extractLsb' 0 8 = lo := by
    apply BitVec.eq_of_toNat_eq
    rw [BitVec.extractLsb'_toNat, sum, Nat.shiftRight_zero]
    omega
  rw [twoBytes, high, low]

/-- R193: the spare positions of a notice set are clear when its high byte is below 4. -/
theorem spare_clear_iff (hi lo : Byte) : (readTwo hi lo).extractLsb' 10 6 = 0 ↔ hi.toNat < 4 := by
  rw [← BitVec.toNat_inj, BitVec.extractLsb'_toNat, readTwo_toNat, Nat.shiftRight_eq_div_pow]
  show (256 * hi.toNat + lo.toNat) / 1024 % 64 = 0 ↔ hi.toNat < 4
  omega

/-- A notice set without spare positions is the number that its two bytes carry. -/
theorem noticeSet_toNat {hi : Byte} (few : hi.toNat < 4) (lo : Byte) :
    ((readTwo hi lo).extractLsb' 0 10).toNat = 256 * hi.toNat + lo.toNat := by
  rw [BitVec.extractLsb'_toNat, readTwo_toNat, Nat.shiftRight_zero]
  omega

theorem noticeSetBytes_readTwo {hi : Byte} (few : hi.toNat < 4) (lo : Byte) :
    noticeSetBytes ((readTwo hi lo).extractLsb' 0 10) = [hi, lo] := by
  have whole : ((readTwo hi lo).extractLsb' 0 10).zeroExtend 16 = readTwo hi lo := by
    apply BitVec.eq_of_toNat_eq
    rw [BitVec.toNat_setWidth, noticeSet_toNat few, readTwo_toNat]
    omega
  rw [noticeSetBytes, whole, twoBytes_readTwo]

/-- R135: WRITE SETTINGS by the spare positions of its enable set. -/
theorem writeSettingsOwn_eq {s : State} {r : Request} {timeout hi lo : Byte} (payload : r.payload = [timeout, hi, lo]) :
    writeSettingsOwn r s =
      if hi.toNat < 4 then
        .run
          { s with executor := { s.executor with
              relayTimeout := timeout, noticeEnable := (readTwo hi lo).extractLsb' 0 10 } }
          ([timeout] ++ noticeSetBytes ((readTwo hi lo).extractLsb' 0 10))
      else .refuse .outOfRange := by
  rw [writeSettingsOwn, payload]
  exact if_congr (spare_clear_iff hi lo) rfl rfl

/-- Settles O44: the verdict by the spare positions (`writeSettingsOwn_eq`), and the end of the request by it
(`ends_of_refuse`, `ends_of_run`). -/
theorem writeSettingsWritesBoth : Obligations.WriteSettingsWritesBoth := by
  unfold Obligations.WriteSettingsWritesBoth
  intro s r rest timeout hi lo (takes : Takes RequestKind.writeSettings.code s r rest) payload
  have noReturn := placesReturn_of_takes takes (by decide)
  have checked : generalCheck .writeSettings r = none := generalCheck_eq_none rfl rfl (by rw [payload]; rfl)
  have own := writeSettingsOwn_eq (s := taken s rest) payload
  refine ⟨fun spare => ends_of_refuse takes noReturn rfl checked (own.trans (if_neg (Nat.not_lt.2 spare))),
    fun few => ⟨(readTwo hi lo).extractLsb' 0 10, noticeSet_toNat few lo, ?_⟩⟩
  rw [if_pos few, noticeSetBytes_readTwo few] at own
  exact ends_of_run takes noReturn rfl checked own

end Sys2Proof.Machine
end

section
/-! PROOFS. What a node reset keeps and clears (R105, R106), and what the report of a sent frame does to the emission in
progress (R14, R104, R149, R173). -/

namespace Sys2Proof.Machine

open Sys2Proof.Claims

/-! ### A node reset (R105, R106, R156) -/

/-- R156: a node reset keeps the message being sent, without its link. -/
theorem InboundUnit.keptQueue_of_sendingOwn {u : InboundUnit} (h : u.sendingOwn) :
    u.keptQueue = (u.queue.take 1).map fun e => { e with link := .plain } := by
  obtain ⟨⟨_, _, _⟩, emission, rfl⟩ := h
  unfold InboundUnit.keptQueue
  rw [emission]

theorem InboundUnit.sendingOwn_iff {u : InboundUnit} {e : Emission} (h : u.emission = some e) :
    u.sendingOwn ↔ e.source = .ownQueue := by
  simp [InboundUnit.sendingOwn, h]

/-- R156: a node reset keeps no message that is not being sent. -/
theorem InboundUnit.keptQueue_of_not_sendingOwn {u : InboundUnit} (h : ¬u.sendingOwn) : u.keptQueue = [] := by
  unfold InboundUnit.keptQueue
  split
  · rename_i emission
    exact absurd ((InboundUnit.sendingOwn_iff emission).2 rfl) h
  · rfl

/-- R76: a node reset sets every channel to its device-reset value but for the input word register. -/
theorem ChannelUnit.nodeReset_channel (ch : ChannelUnit) (k : Fin 8) :
    ch.nodeReset.inputs[k] = { State.reset.chan.inputs[k] with word := ch.inputs[k].word } ∧
      ch.nodeReset.outputs[k] = State.reset.chan.outputs[k] := by
  simp [ChannelUnit.nodeReset, State.reset, ChannelUnit.reset]

/-- R155: no notice is pending after a reset. -/
theorem PendingNotices.reset_kinds : PendingNotices.reset.kinds = 0 := by
  decide

/-- Settles O4: the reset block by block, the channels by `ChannelUnit.nodeReset_channel` and the outgoing queue by
whether a message of it is being sent. -/
theorem nodeResetKeepsAndClears : Obligations.NodeResetKeepsAndClears := by
  unfold Obligations.NodeResetKeepsAndClears
  intro s
  have channel := s.chan.nodeReset_channel
  refine ⟨nodeResetState s, rfl, rfl, rfl, rfl, rfl, rfl, rfl, rfl, rfl, rfl, rfl, rfl, rfl, rfl, fun k => ?word, rfl,
    rfl, channel, rfl, rfl, fun sending => ?sending, fun idle => InboundUnit.keptQueue_of_not_sendingOwn idle, rfl, rfl,
    rfl, PendingNotices.reset_kinds, rfl⟩
  case word =>
    obtain ⟨input, -⟩ := channel k
    have kept := congrArg InputChannel.word input
    exact kept
  case sending =>
    show s.inbound.keptQueue.map OutEntry.message = _
    rw [InboundUnit.keptQueue_of_sendingOwn sending, List.map_map, ← List.map_take]
    rfl

/-! ### The report of a sent frame (R14, R149) -/

section

variable {c : Chunk} {s : State} {e : Emission}

theorem emissionReport_none (h : s.inbound.emission = none) : emissionReport c s = s := by
  rw [emissionReport, h]

theorem emissionReport_idle (h : readTag c.tag = .idle) : emissionReport c s = s := by
  unfold emissionReport
  rw [h]
  split <;> rfl

/-- R149: the report of a chunk that others follow is counted. -/
theorem emissionReport_counts (h : s.inbound.emission = some e)
    (tag : readTag c.tag = .first ∨ readTag c.tag = .middle) :
    emissionReport c s = { s with inbound := { s.inbound with emission := some { e with sent := e.sent + 1 } } } := by
  unfold emissionReport
  rw [h]
  rcases tag with tag | tag <;> rw [tag]

/-- R149: the report of the last chunk ends the emission. -/
theorem emissionReport_ends (h : s.inbound.emission = some e) (tag : readTag c.tag = .last ∨ readTag c.tag = .only) :
    emissionReport c s = endEmission e.source s := by
  unfold emissionReport
  rw [h]
  rcases tag with tag | tag <;> rw [tag]

/-- R149: the end of the emission of an outgoing message takes it out of the queue, with the effect of its link. -/
theorem endEmission_own {x : OutEntry} {rest : List OutEntry} (queue : s.inbound.queue = x :: rest) :
    endEmission .ownQueue s =
      emissionEffect x.link { s with inbound := { s.inbound with queue := rest, emission := none } } := by
  rw [endEmission, queue]

end

/-- R14: the oldest frame that the head-side port holds is reported with its chunk. -/
theorem exec_inboundFrameSentReport {s : State} {f : Frame} {frames : List Frame} (h : s.wires.headTx = f :: frames) :
    exec .inboundFrameSentReport s = .next (emissionReport f.chunk (reported s f frames)) := by
  show Host.Outcome.next (sentReport s) = _
  rw [sentReport, h]
  rfl

/-- Settles O45: the report by the tag of the chunk reported, and the end of the emission by its source and link. -/
theorem reportEndsEmission : Obligations.ReportEndsEmission := by
  unfold Obligations.ReportEndsEmission
  intro s f frames e oldest
  rw [exec_inboundFrameSentReport oldest]
  refine ⟨fun quiet => ?quiet, fun emission tag => ?counts, fun emission tag => ?ends⟩
  case quiet =>
    congr 1
    rcases quiet with emission | tag | tag
    · exact emissionReport_none emission
    · exact emissionReport_idle (readTag_of_readAsIdle (.inr tag))
    · exact emissionReport_idle (readTag_of_readAsIdle (.inl tag))
  case counts =>
    have read : readTag f.chunk.tag = .first ∨ readTag f.chunk.tag = .middle := by
      rcases tag with tag | tag <;> rw [tag] <;> decide
    rw [emissionReport_counts (s := reported s f frames) emission read]
    rfl
  case ends =>
    have read : readTag f.chunk.tag = .last ∨ readTag f.chunk.tag = .only := by
      rcases tag with tag | tag <;> rw [tag] <;> decide
    rw [emissionReport_ends (s := reported s f frames) emission read]
    refine ⟨fun k source => by rw [source]; rfl, fun x rest source queue => ?_⟩
    rw [source, endEmission_own (s := reported s f frames) queue]
    refine ⟨fun link => by rw [link]; rfl, fun link => by rw [link]; rfl, fun link waits => ?_⟩
    rw [link]
    exact congrArg _ (if_pos waits)

end Sys2Proof.Machine
end

section
/-! PROOFS. The inbound service unit, the inward box and the executor's reset-wait agree after every step (R104, R137,
R138, R146, R149, R168, R172, R173). -/

namespace Sys2Proof.Machine

/-! ### Slots, inbound receiver, completion order and emission (R137, R138, R146) -/

/-- The inbound receiver fills slot k (R138). -/
def InboundUnit.fills (u : InboundUnit) (k : Fin 2) : Prop :=
  ∃ c n, u.rx = .receiving k c n

/-- The emission in progress is of slot k (R146). -/
def InboundUnit.sends (u : InboundUnit) (k : Fin 2) : Prop :=
  ∃ e, u.emission = some e ∧ e.source = .slot k

/-- A slot is RECEIVING, COMPLETE or SENDING exactly when the unit has it so. -/
def PassSlot.Fits (x : PassSlot) (filled ordered sent : Prop) : Prop :=
  ((∃ bytes, x = .receiving bytes) ↔ filled) ∧ ((∃ m, x = .complete m) ↔ ordered) ∧ ((∃ m, x = .sending m) ↔ sent)

section

variable {filled ordered sent : Prop}

@[simp] theorem PassSlot.fits_free : PassSlot.free.Fits filled ordered sent ↔ ¬filled ∧ ¬ordered ∧ ¬sent := by
  simp [PassSlot.Fits]

@[simp] theorem PassSlot.fits_receiving (bytes : List Byte) :
    (PassSlot.receiving bytes).Fits filled ordered sent ↔ filled ∧ ¬ordered ∧ ¬sent := by
  simp [PassSlot.Fits]

@[simp] theorem PassSlot.fits_complete (m : Message) :
    (PassSlot.complete m).Fits filled ordered sent ↔ ¬filled ∧ ordered ∧ ¬sent := by
  simp [PassSlot.Fits]

@[simp] theorem PassSlot.fits_sending (m : Message) :
    (PassSlot.sending m).Fits filled ordered sent ↔ ¬filled ∧ ¬ordered ∧ sent := by
  simp [PassSlot.Fits]

variable {x : PassSlot}

/-- A slot that is being filled is neither ordered nor sent. -/
theorem PassSlot.Fits.of_filled (h : x.Fits filled ordered sent) (now : filled) : ¬ordered ∧ ¬sent := by
  have ⟨isReceiving, _, _⟩ := h
  obtain ⟨bytes, rfl⟩ := isReceiving.2 now
  obtain ⟨-, others⟩ := (PassSlot.fits_receiving bytes).1 h
  exact others

/-- A slot that is ordered is neither being filled nor sent. -/
theorem PassSlot.Fits.of_ordered (h : x.Fits filled ordered sent) (now : ordered) : ¬filled ∧ ¬sent := by
  have ⟨_, isComplete, _⟩ := h
  obtain ⟨m, rfl⟩ := isComplete.2 now
  obtain ⟨unfilled, -, unsent⟩ := (PassSlot.fits_complete m).1 h
  exact ⟨unfilled, unsent⟩

/-- A slot that is being sent is neither filled nor ordered. -/
theorem PassSlot.Fits.of_sent (h : x.Fits filled ordered sent) (now : sent) : ¬filled ∧ ¬ordered := by
  have ⟨_, _, isSending⟩ := h
  obtain ⟨m, rfl⟩ := isSending.2 now
  obtain ⟨unfilled, unordered, -⟩ := (PassSlot.fits_sending m).1 h
  exact ⟨unfilled, unordered⟩

end

/-- Every slot fits the inbound receiver, the completion order and the emission, and no slot is ordered twice. -/
def InboundUnit.SlotsFit (u : InboundUnit) : Prop :=
  (∀ k : Fin 2, u.slots[k].Fits (u.fills k) (k ∈ u.order) (u.sends k)) ∧ u.order.Nodup

/-- The slots go on fitting where one slot is replaced by one that fits, and the unit has every other as it had it. -/
theorem InboundUnit.SlotsFit.replace {u v : InboundUnit} (h : u.SlotsFit) {k : Fin 2} {x : PassSlot}
    (slots : v.slots = u.slots.set k x) (here : x.Fits (v.fills k) (k ∈ v.order) (v.sends k))
    (filled : ∀ j ≠ k, (v.fills j ↔ u.fills j)) (ordered : ∀ j ≠ k, (j ∈ v.order ↔ j ∈ u.order))
    (sent : ∀ j ≠ k, (v.sends j ↔ u.sends j)) (nodup : v.order.Nodup) : v.SlotsFit := by
  obtain ⟨fits, -⟩ := h
  refine ⟨fun j => ?_, nodup⟩
  rw [slots]
  by_cases same : j = k
  · subst same
    simpa using here
  · have kept : (u.slots.set k x)[j] = u.slots[j] := by
      have apart : k.val ≠ j.val := fun e => same (Fin.ext e.symm)
      simp [Vector.getElem_set_ne, apart]
    rw [kept, filled j same, ordered j same, sent j same]
    exact fits j

theorem InboundUnit.fills_of_rx {u : InboundUnit} {k : Fin 2} {c n : Nat} (h : u.rx = .receiving k c n) (j : Fin 2) :
    u.fills j ↔ j = k := by
  simp [InboundUnit.fills, h, eq_comm]

theorem InboundUnit.fills_none {u : InboundUnit} (h : ∀ k c n, u.rx ≠ .receiving k c n) (j : Fin 2) : ¬u.fills j := by
  rintro ⟨c, n, e⟩
  exact h j c n e

/-- R138: a receiver that fills no slot may turn to one that fills none either. -/
theorem InboundUnit.SlotsFit.withRx {u : InboundUnit} (h : u.SlotsFit) (idle : ∀ k c n, u.rx ≠ .receiving k c n)
    {rx : InboundReceiver} (still : ∀ k c n, rx ≠ .receiving k c n) :
    InboundUnit.SlotsFit { u with rx := rx } := by
  obtain ⟨fits, nodup⟩ := h
  refine ⟨fun k => ?_, nodup⟩
  have same : InboundUnit.fills { u with rx := rx } k ↔ u.fills k :=
    iff_of_false (InboundUnit.fills_none still k) (u.fills_none idle k)
  show u.slots[k].Fits (InboundUnit.fills { u with rx := rx } k) _ _
  rw [same]
  exact fits k

/-- R140, R142: the slot of a message that is given up is FREE. -/
theorem InboundUnit.SlotsFit.abandon {u : InboundUnit} (h : u.SlotsFit) {k : Fin 2} {c n : Nat}
    (rx : u.rx = .receiving k c n) : (u.abandon k).SlotsFit := by
  have ⟨fits, nodup⟩ := h
  have idle (j : Fin 2) : ¬(u.abandon k).fills j := InboundUnit.fills_none (by simp) j
  exact h.replace rfl (PassSlot.fits_free.2 ⟨idle k, (fits k).of_filled ⟨c, n, rx⟩⟩)
    (fun j apart => iff_of_false (idle j) (by rwa [InboundUnit.fills_of_rx rx])) (fun _ _ => .rfl) (fun _ _ => .rfl)
    nodup

/-- R139, R140: a slot that is FREE but for what it receives is filled on. -/
theorem InboundUnit.SlotsFit.fill {u : InboundUnit} {k : Fin 2} (h : (u.abandon k).SlotsFit) (bytes : List Byte)
    (c n : Nat) : InboundUnit.SlotsFit { u.setSlot k (.receiving bytes) with rx := .receiving k c n } := by
  have ⟨fits, nodup⟩ := h
  have free := fits k
  simp only [InboundUnit.abandon_slots, Fin.getElem_fin, Vector.getElem_set_self, PassSlot.fits_free] at free
  obtain ⟨-, unplaced⟩ := free
  have filled (j : Fin 2) :
      InboundUnit.fills { u.setSlot k (.receiving bytes) with rx := .receiving k c n } j ↔ j = k :=
    InboundUnit.fills_of_rx rfl j
  exact h.replace (k := k) (x := .receiving bytes) (by simp)
    ((PassSlot.fits_receiving _).2 ⟨(filled k).2 rfl, unplaced⟩)
    (fun j apart => iff_of_false (by rwa [filled]) (InboundUnit.fills_none (by simp) j)) (fun _ _ => .rfl)
    (fun _ _ => .rfl) nodup

/-- R137, R141: a message that is complete stands last in the completion order. -/
theorem InboundUnit.SlotsFit.complete {u : InboundUnit} {k : Fin 2} (h : (u.setSlot k .free).SlotsFit) (m : Message) :
    InboundUnit.SlotsFit { u.setSlot k (.complete m) with order := u.order ++ [k] } := by
  have ⟨fits, nodup⟩ := h
  have free := fits k
  simp only [InboundUnit.setSlot_slots, Fin.getElem_fin, Vector.getElem_set_self, PassSlot.fits_free] at free
  obtain ⟨unfilled, unordered, unsent⟩ := free
  have once : (u.order ++ [k]).Nodup := List.concat_eq_append ▸ nodup.concat unordered
  exact h.replace (k := k) (x := .complete m) (by simp) ((PassSlot.fits_complete _).2 ⟨unfilled, by simp, unsent⟩)
    (fun _ _ => .rfl) (fun j apart => by simp [apart]) (fun _ _ => .rfl) once

/-- A FREE slot set FREE is what it was. -/
theorem InboundUnit.setSlot_free_self {u : InboundUnit} {k : Fin 2} (free : u.slots[k] = .free) :
    u.setSlot k .free = u := by
  unfold InboundUnit.setSlot
  rw [← free]
  simp

/-- R139: the slot that a new message claims is FREE. -/
theorem InboundUnit.freeSlot_some {u : InboundUnit} {k : Fin 2} (h : u.freeSlot = some k) : u.slots[k] = .free := by
  unfold InboundUnit.freeSlot at h
  split at h
  · cases h
    assumption
  · split at h
    · cases h
      assumption
    · cases h

/-! ### What reception does to the slots (R138 to R142) -/

/-- R141: a complete message is stored or discarded. -/
theorem passCompletion_slotsFit {s : State} {k : Fin 2} (h : (s.inbound.setSlot k .free).SlotsFit)
    (bytes : List Byte) : (passCompletion k bytes s).inbound.SlotsFit := by
  unfold passCompletion
  simp only
  split
  · exact h.complete _
  · exact h

/-- R139: a message begins in a slot that was FREE, or is dropped. -/
theorem beginPass_slotsFit {s : State} (h : s.inbound.SlotsFit) (idle : s.inbound.rx = .idle) (only : Bool)
    (c : Chunk) : (beginPass only c s).inbound.SlotsFit := by
  unfold beginPass
  split
  · exact h
  · rename_i k _ slot
    exact passCompletion_slotsFit ((InboundUnit.setSlot_free_self (InboundUnit.freeSlot_some slot)).symm ▸ h) _
  · exact h
  · rename_i k _ slot
    have claimed : s.inbound.abandon k = s.inbound := by
      rw [InboundUnit.abandon, InboundUnit.setSlot_free_self (InboundUnit.freeSlot_some slot), ← idle]
    exact InboundUnit.SlotsFit.fill (claimed.symm ▸ h) _ _ _
  · exact h.withRx (by simp [idle]) (by simp)

theorem inboundIdle_slotsFit {s : State} (h : s.inbound.SlotsFit) (idle : s.inbound.rx = .idle) (c : Chunk) :
    (inboundIdle c s).inbound.SlotsFit := by
  unfold inboundIdle
  split
  · exact h
  · exact beginPass_slotsFit h idle _ c
  · exact beginPass_slotsFit h idle _ c
  · exact h
  · exact h

/-- R138 to R141: a received chunk leaves the slots fitting. -/
theorem inboundReceive_slotsFit {s : State} (h : s.inbound.SlotsFit) (c : Chunk) :
    (inboundReceive c s).inbound.SlotsFit := by
  unfold inboundReceive
  split
  · rename_i idle
    exact inboundIdle_slotsFit h idle c
  · rename_i discarding
    have ended : InboundUnit.SlotsFit { s.inbound with rx := .idle } := h.withRx (by simp [discarding]) (by simp)
    split
    · exact h
    · exact ended
    · exact ended
    all_goals exact inboundIdle_slotsFit ended rfl c
  · rename_i k received expected rx
    have given := h.abandon rx
    simp only
    split
    · split
      · exact given.fill _ _ _
      · exact given
    · split
      · exact passCompletion_slotsFit (s := { s with inbound := { s.inbound with rx := .idle } }) given _
      · exact given
    · exact given
    all_goals exact inboundIdle_slotsFit given rfl c

/-- R142: a tail-side miss gives up what is being received. -/
theorem InboundUnit.SlotsFit.tailMiss {u : InboundUnit} (h : u.SlotsFit) : u.tailMiss.SlotsFit := by
  unfold InboundUnit.tailMiss
  split
  · exact h
  · rename_i discarding
    exact h.withRx (by simp [discarding]) (by simp)
  · rename_i rx
    exact h.abandon rx

/-! ### The outgoing queue and what it serves (R104, R146, R168, R172, R173) -/

/-- R146: the message of an emission of the node's own is in the outgoing queue. -/
def InboundUnit.OwnHeld (u : InboundUnit) : Prop :=
  u.sendingOwn → u.queue ≠ []

/-- R168, R172, R173: the outgoing queue holds the message of the inward box as the box says. -/
def InboundUnit.ServesBox (u : InboundUnit) : InwardBox → Prop
  | .empty | .posted _ => u.linked .inwardBox = 0
  | .queued _ => u.linked .inwardBox = 1 ∧ ¬u.sendingLinked .inwardBox
  | .sending _ => u.linked .inwardBox = 1 ∧ u.sendingLinked .inwardBox

/-- R103, R104: the outgoing queue holds the recorded reply exactly in RESET-WAIT. -/
def InboundUnit.ServesReset (u : InboundUnit) (state : ExecutorState) : Prop :=
  u.linked .resetReply = if state = .resetWait then 1 else 0

/-- The inbound service unit in agreement with itself, an inward box and an executor state. -/
structure InboundUnit.Agrees (u : InboundUnit) (box : InwardBox) (state : ExecutorState) : Prop where
  slots : u.SlotsFit
  held : u.OwnHeld
  box : u.ServesBox box
  reset : u.ServesReset state

/-- The inbound service unit of a node in agreement with its inward box and its executor. -/
def ServiceUnitAgrees (s : State) : Prop :=
  s.inbound.Agrees s.relay.inward s.executor.state

theorem passBufferConsistent_iff {s : State} :
    PassBufferConsistent s ↔ s.inbound.SlotsFit ∧ s.inbound.OwnHeld := by
  simp only [PassBufferConsistent, InboundUnit.SlotsFit, PassSlot.Fits, InboundUnit.fills, InboundUnit.sends,
    InboundUnit.OwnHeld, forall_and]
  tauto

theorem linksConsistent_iff {s : State} :
    LinksConsistent s ↔ s.inbound.ServesBox s.relay.inward ∧ s.inbound.ServesReset s.executor.state := by
  have reset : s.inbound.ServesReset s.executor.state ↔
      (s.executor.state = .resetWait → s.inbound.linked .resetReply = 1) ∧
        (s.executor.state ≠ .resetWait → s.inbound.linked .resetReply = 0) := by
    unfold InboundUnit.ServesReset
    split <;> simp_all
  rw [reset]
  cases h : s.relay.inward <;> simp [LinksConsistent, InboundUnit.ServesBox, h]

theorem serviceUnitAgrees_iff {s : State} : ServiceUnitAgrees s ↔ PassBufferConsistent s ∧ LinksConsistent s := by
  rw [passBufferConsistent_iff, linksConsistent_iff]
  exact ⟨fun ⟨slots, held, box, reset⟩ => ⟨⟨slots, held⟩, box, reset⟩,
    fun ⟨⟨slots, held⟩, box, reset⟩ => ⟨slots, held, box, reset⟩⟩

/-! ### A message that joins the queue (R144) -/

/-- The inbound unit with one message more at the tail of its outgoing queue. -/
def InboundUnit.joined (u : InboundUnit) (e : OutEntry) : InboundUnit :=
  { u with queue := u.queue ++ [e] }

@[simp] theorem InboundUnit.linked_joined (u : InboundUnit) (e : OutEntry) (link : OutLink) :
    (u.joined e).linked link = u.linked link + if e.link = link then 1 else 0 := by
  simp [InboundUnit.linked, InboundUnit.joined, List.countP_append, List.countP_singleton]

/-- What joins the queue is not the message that is being sent. -/
theorem InboundUnit.sendingLinked_joined {u : InboundUnit} (held : u.OwnHeld) (e : OutEntry) (link : OutLink) :
    (u.joined e).sendingLinked link ↔ u.sendingLinked link := by
  refine and_congr_right fun sending => ?_
  have ⟨first, rest, queue⟩ := List.exists_cons_of_ne_nil (held sending)
  simp [InboundUnit.joined, queue]

/-- A message that is not linked is not being sent. -/
theorem InboundUnit.not_sendingLinked {u : InboundUnit} {link : OutLink} (none : u.linked link = 0) :
    ¬u.sendingLinked link := by
  rintro ⟨-, head⟩
  obtain ⟨e, he, rfl⟩ := Option.map_eq_some_iff.1 head
  have notLinked := List.countP_eq_zero.1 none e (List.mem_of_mem_head? he)
  exact notLinked (beq_self_eq_true e.link)

/-- A message that joins touches neither the slots nor the message being sent: what is left to show are the links. -/
theorem InboundUnit.Agrees.join {u : InboundUnit} {box box' : InwardBox} {state state' : ExecutorState}
    (h : u.Agrees box state) {e : OutEntry} (serves : (u.joined e).ServesBox box')
    (reset : (u.joined e).ServesReset state') : (u.joined e).Agrees box' state' :=
  ⟨h.slots, fun _ => by simp [InboundUnit.joined], serves, reset⟩

theorem InboundUnit.ServesBox.join {u : InboundUnit} {box : InwardBox} (h : u.ServesBox box) (held : u.OwnHeld)
    {e : OutEntry} (link : e.link ≠ .inwardBox) : (u.joined e).ServesBox box := by
  cases box <;> simpa [InboundUnit.ServesBox, link, InboundUnit.sendingLinked_joined held] using h

theorem InboundUnit.ServesReset.join {u : InboundUnit} {state : ExecutorState} (h : u.ServesReset state)
    {e : OutEntry} (link : e.link ≠ .resetReply) : (u.joined e).ServesReset state := by
  simpa [InboundUnit.ServesReset, link] using h

/-- A message without a link joins. -/
theorem InboundUnit.Agrees.joinPlain {u : InboundUnit} {box : InwardBox} {state : ExecutorState}
    (h : u.Agrees box state) (m : Message) : (u.joined { message := m, link := .plain }).Agrees box state :=
  h.join (h.box.join h.held (by simp)) (h.reset.join (by simp))

/-- R103: the recorded reply joins, and the executor enters RESET-WAIT. -/
theorem InboundUnit.Agrees.joinReset {u : InboundUnit} {box : InwardBox} {state : ExecutorState}
    (h : u.Agrees box state) (taking : state ≠ .resetWait) (m : Message) :
    (u.joined { message := m, link := .resetReply }).Agrees box .resetWait := by
  have none := h.reset
  simp only [InboundUnit.ServesReset, if_neg taking] at none
  exact h.join (h.box.join h.held (by simp)) (by simp [InboundUnit.ServesReset, none])

/-- R172: the message of a POSTED box joins, and the box is QUEUED. -/
theorem InboundUnit.Agrees.joinRelayIn {u : InboundUnit} {p : List Byte} {state : ExecutorState}
    (h : u.Agrees (.posted p) state) (m : Message) :
    (u.joined { message := m, link := .inwardBox }).Agrees (.queued p) state := by
  have none : u.linked .inwardBox = 0 := h.box
  refine h.join ⟨by simp [none], ?_⟩ (h.reset.join (by simp))
  rw [InboundUnit.sendingLinked_joined h.held]
  exact InboundUnit.not_sendingLinked none

/-! ### The emission and what it takes out of the queue (R146, R147, R149) -/

theorem InboundUnit.sends_iff {u : InboundUnit} {e : Emission} (h : u.emission = some e) (k : Fin 2) :
    u.sends k ↔ e.source = .slot k := by
  simp [InboundUnit.sends, h]

theorem InboundUnit.not_sends {u : InboundUnit} (h : u.emission = none) (k : Fin 2) : ¬u.sends k := by
  simp [InboundUnit.sends, h]

theorem InboundUnit.not_sendingOwn {u : InboundUnit} (h : u.emission = none) : ¬u.sendingOwn := by
  simp [InboundUnit.sendingOwn, h]

theorem InboundUnit.SlotsFit.withEmission {u : InboundUnit} (h : u.SlotsFit) {emission : Option Emission}
    (same : ∀ k, InboundUnit.sends { u with emission := emission } k ↔ u.sends k) :
    InboundUnit.SlotsFit { u with emission := emission } := by
  obtain ⟨fits, nodup⟩ := h
  refine ⟨fun k => ?_, nodup⟩
  show u.slots[k].Fits _ _ (InboundUnit.sends { u with emission := emission } k)
  rw [same k]
  exact fits k

/-- A box is served by the queue and by whose emission is in progress alone. -/
theorem InboundUnit.ServesBox.congr {u v : InboundUnit} {box : InwardBox} (h : u.ServesBox box)
    (queue : v.queue = u.queue) (own : v.sendingOwn ↔ u.sendingOwn) : v.ServesBox box := by
  cases box <;>
    simpa only [InboundUnit.ServesBox, InboundUnit.linked, InboundUnit.sendingLinked, queue, own] using h

/-- R148, R149: an emission that goes on, from the source it had, keeps the agreement. -/
theorem InboundUnit.Agrees.goesOn {u : InboundUnit} {box : InwardBox} {state : ExecutorState} (h : u.Agrees box state)
    {e x : Emission} (progress : u.emission = some e) (source : x.source = e.source) :
    InboundUnit.Agrees { u with emission := some x } box state := by
  have own : InboundUnit.sendingOwn { u with emission := some x } ↔ u.sendingOwn := by
    rw [InboundUnit.sendingOwn_iff progress, InboundUnit.sendingOwn_iff rfl, source]
  refine ⟨h.slots.withEmission fun k => ?_, fun sending => h.held (own.1 sending), h.box.congr rfl own, h.reset⟩
  rw [InboundUnit.sends_iff progress, InboundUnit.sends_iff rfl, source]

/-- R147: the pass-through candidate stands first in the completion order. -/
theorem InboundUnit.passCandidate_some {u : InboundUnit} {k : Fin 2} {m : Message} (h : u.passCandidate = some (k, m)) :
    ∃ rest, u.order = k :: rest := by
  unfold InboundUnit.passCandidate at h
  split at h
  · rename_i j rest order
    obtain ⟨_, -, e⟩ := Option.map_eq_some_iff.1 h
    cases e
    exact ⟨rest, order⟩
  · cases h

/-- R147: the slot of the candidate that wins turns from COMPLETE to SENDING. -/
theorem InboundUnit.SlotsFit.start {u : InboundUnit} (h : u.SlotsFit) {k : Fin 2} {rest : List (Fin 2)}
    (order : u.order = k :: rest) (idle : u.emission = none) (m : Message) (x : Emission)
    (source : x.source = .slot k) :
    InboundUnit.SlotsFit { u.setSlot k (.sending m) with order := u.order.tail, emission := some x } := by
  have ⟨fits, nodup⟩ := h
  have tail : u.order.tail = rest := by rw [order, List.tail_cons]
  rw [order, List.nodup_cons] at nodup
  obtain ⟨once, nodup⟩ := nodup
  rw [tail]
  obtain ⟨unfilled, -⟩ := (fits k).of_ordered (by simp [order])
  have sent (j : Fin 2) :
      InboundUnit.sends { u.setSlot k (.sending m) with order := rest, emission := some x } j ↔ j = k := by
    rw [InboundUnit.sends_iff rfl, source, EmissionSource.slot.injEq, eq_comm]
  exact h.replace (k := k) (x := .sending m) rfl ((PassSlot.fits_sending _).2 ⟨unfilled, once, (sent k).2 rfl⟩)
    (fun _ _ => .rfl) (fun j apart => by simp [order, apart])
    (fun j apart => iff_of_false (by rwa [sent]) (u.not_sends idle j)) nodup

/-- R147: a pass-through message wins. -/
theorem startPass_agrees {s : State} (h : ServiceUnitAgrees s) (idle : s.inbound.emission = none) {k : Fin 2}
    {m : Message} (candidate : s.inbound.passCandidate = some (k, m)) : ServiceUnitAgrees (startPass k m s).2 := by
  obtain ⟨rest, order⟩ := InboundUnit.passCandidate_some candidate
  have notOwn : ¬(startPass k m s).2.inbound.sendingOwn := by
    rw [InboundUnit.sendingOwn_iff rfl]
    exact nofun
  exact ⟨h.slots.start order idle m _ rfl, fun sending => absurd sending notOwn,
    h.box.congr rfl (iff_of_false notOwn (InboundUnit.not_sendingOwn idle)), h.reset⟩

/-- R173: the arbiter leaves the relay unit alone, but for a message of the inward box. -/
theorem startOwn_relay {e : OutEntry} (link : e.link ≠ .inwardBox) (s : State) : (startOwn e s).2.relay = s.relay := by
  unfold startOwn
  simp only
  split
  · contradiction
  · rfl

/-- R147, R173: the inward box is served when the oldest outgoing message begins to be sent: a box QUEUED turns to
SENDING with its own message alone. -/
theorem startOwn_servesBox {s : State} (h : s.inbound.ServesBox s.relay.inward) (idle : s.inbound.emission = none)
    {e : OutEntry} {rest : List OutEntry} (queue : s.inbound.queue = e :: rest) :
    (startOwn e s).2.inbound.ServesBox (startOwn e s).2.relay.inward := by
  have linked : (startOwn e s).2.inbound.linked .inwardBox = s.inbound.linked .inwardBox := rfl
  have sending : (startOwn e s).2.inbound.sendingLinked .inwardBox ↔ e.link = .inwardBox := by
    have own : (startOwn e s).2.inbound.sendingOwn := (InboundUnit.sendingOwn_iff rfl).2 rfl
    have first : (startOwn e s).2.inbound.queue = e :: rest := queue
    simp [InboundUnit.sendingLinked, own, first]
  cases box : s.relay.inward with
  | empty | posted p =>
    rw [box] at h
    have kept : (startOwn e s).2.relay.inward = s.relay.inward := by simp [startOwn, box]
    rw [kept, box]
    exact h
  | queued p =>
    rw [box] at h
    obtain ⟨one, -⟩ := h
    by_cases link : e.link = .inwardBox
    · have turned : (startOwn e s).2.relay.inward = .sending p := by simp [startOwn, box, link]
      rw [turned]
      exact ⟨one, sending.2 link⟩
    · rw [startOwn_relay link, box]
      exact ⟨one, mt sending.1 link⟩
  | sending p =>
    rw [box] at h
    obtain ⟨-, own, -⟩ := h
    exact absurd own (InboundUnit.not_sendingOwn idle)

/-- R147: the oldest outgoing message wins. -/
theorem startOwn_agrees {s : State} (h : ServiceUnitAgrees s) (idle : s.inbound.emission = none)
    {e : OutEntry} {rest : List OutEntry} (queue : s.inbound.queue = e :: rest) :
    ServiceUnitAgrees (startOwn e s).2 := by
  have noSlot (k : Fin 2) : ¬(startOwn e s).2.inbound.sends k := by
    rw [InboundUnit.sends_iff rfl]
    exact nofun
  have slots : (startOwn e s).2.inbound.SlotsFit :=
    h.slots.withEmission fun k => iff_of_false (noSlot k) (InboundUnit.not_sends idle k)
  have first : (startOwn e s).2.inbound.queue = e :: rest := queue
  exact ⟨slots, fun _ => by simp [first], startOwn_servesBox h.box idle queue, h.reset⟩

theorem arbitrate_agrees {s : State} (h : ServiceUnitAgrees s) : ServiceUnitAgrees (arbitrate s).2 := by
  obtain e | ⟨x, _, progress, -, -, e⟩ | ⟨k, m, idle, candidate, e⟩ | ⟨x, rest, idle, queue, e⟩ := arbitrate_cases s <;>
    rw [e]
  · exact h
  · exact h.goesOn progress rfl
  · exact startPass_agrees h idle candidate
  · exact startOwn_agrees h idle queue

/-! ### A node reset (R105, R156) -/

/-- R177: nothing that a node reset keeps is linked to another block. -/
theorem InboundUnit.nodeReset_linked (u : InboundUnit) {link : OutLink} (h : link ≠ .plain) :
    u.nodeReset.linked link = 0 := by
  unfold InboundUnit.linked
  rw [List.countP_eq_zero]
  intro e kept
  by_cases sending : u.sendingOwn
  · rw [InboundUnit.nodeReset, InboundUnit.keptQueue_of_sendingOwn sending] at kept
    obtain ⟨_, -, rfl⟩ := List.mem_map.1 kept
    simpa using h.symm
  · rw [InboundUnit.nodeReset, InboundUnit.keptQueue_of_not_sendingOwn sending] at kept
    cases kept

/-- R105, R106: after a node reset no message is waited for, and the slots are as they were. -/
theorem nodeResetState_agrees {s : State} (slots : s.inbound.SlotsFit) (held : s.inbound.OwnHeld) :
    ServiceUnitAgrees (nodeResetState s) where
  slots := slots
  held sending := by
    have own : s.inbound.sendingOwn := sending
    have nonempty := held own
    show s.inbound.keptQueue ≠ []
    rw [InboundUnit.keptQueue_of_sendingOwn own]
    simpa using nonempty
  box := s.inbound.nodeReset_linked nofun
  reset := s.inbound.nodeReset_linked nofun

/-! ### The end of an emission (R104, R149, R173) -/

/-- R149: the unit with the emission over and its message, the oldest, out of the queue. -/
def InboundUnit.sentOff (u : InboundUnit) (rest : List OutEntry) : InboundUnit :=
  { u with queue := rest, emission := none }

section

variable {u : InboundUnit} {e : OutEntry} {rest : List OutEntry}

theorem InboundUnit.linked_sentOff (queue : u.queue = e :: rest) (link : OutLink) :
    u.linked link = (u.sentOff rest).linked link + if e.link = link then 1 else 0 := by
  simp [InboundUnit.linked, InboundUnit.sentOff, queue, List.countP_cons]

theorem InboundUnit.sendingLinked_iff (own : u.sendingOwn) (queue : u.queue = e :: rest) (link : OutLink) :
    u.sendingLinked link ↔ e.link = link := by
  simp [InboundUnit.sendingLinked, own, queue]

/-- A message that is not of the box leaves. -/
theorem InboundUnit.ServesBox.sentOff {box : InwardBox} (h : u.ServesBox box) (own : u.sendingOwn)
    (queue : u.queue = e :: rest) (link : e.link ≠ .inwardBox) : (u.sentOff rest).ServesBox box := by
  have linked := InboundUnit.linked_sentOff queue .inwardBox
  have notLinked := mt (InboundUnit.sendingLinked_iff own queue .inwardBox).1 link
  rw [if_neg link, Nat.add_zero] at linked
  cases box with
  | empty | posted _ => exact linked.symm.trans h
  | queued _ =>
    obtain ⟨one, -⟩ := h
    exact ⟨linked.symm.trans one, fun ⟨stillOwn, _⟩ => InboundUnit.not_sendingOwn rfl stillOwn⟩
  | sending _ =>
    obtain ⟨-, sending⟩ := h
    exact absurd sending notLinked

/-- R173: the message of the box leaves, and none of it is left. -/
theorem InboundUnit.ServesBox.sentOff_own {box : InwardBox} (h : u.ServesBox box) (own : u.sendingOwn)
    (queue : u.queue = e :: rest) (link : e.link = .inwardBox) : (u.sentOff rest).ServesBox .empty := by
  have linked := InboundUnit.linked_sentOff queue .inwardBox
  have sending := (InboundUnit.sendingLinked_iff own queue .inwardBox).2 link
  rw [if_pos link] at linked
  show (u.sentOff rest).linked .inwardBox = 0
  cases box with
  | empty | posted _ => exact absurd (linked.symm.trans h) (Nat.succ_ne_zero _)
  | queued _ =>
    obtain ⟨-, notSending⟩ := h
    exact absurd sending notSending
  | sending _ =>
    obtain ⟨one, -⟩ := h
    exact Nat.succ.inj (linked.symm.trans one)

theorem InboundUnit.SlotsFit.sentOff (h : u.SlotsFit) (own : u.sendingOwn) (rest : List OutEntry) :
    (u.sentOff rest).SlotsFit := by
  obtain ⟨x, emission, source⟩ := own
  refine h.withEmission fun k => iff_of_false (InboundUnit.not_sends rfl k) ?_
  rw [InboundUnit.sends_iff emission, source]
  exact nofun

theorem InboundUnit.sentOff_held (u : InboundUnit) (rest : List OutEntry) : (u.sentOff rest).OwnHeld :=
  fun own => absurd own (InboundUnit.not_sendingOwn rfl)

end

/-- R149: the slot whose message has been sent is FREE. -/
theorem InboundUnit.SlotsFit.freed {u : InboundUnit} (h : u.SlotsFit) {x : Emission} {k : Fin 2}
    (emission : u.emission = some x) (source : x.source = .slot k) :
    InboundUnit.SlotsFit { u.setSlot k .free with emission := none } := by
  have ⟨fits, nodup⟩ := h
  have sent (j : Fin 2) : u.sends j ↔ k = j := by
    rw [InboundUnit.sends_iff emission, source, EmissionSource.slot.injEq]
  have ended (j : Fin 2) : ¬InboundUnit.sends { u.setSlot k .free with emission := none } j :=
    InboundUnit.not_sends rfl j
  obtain ⟨unfilled, unordered⟩ := (fits k).of_sent ((sent k).2 rfl)
  exact h.replace (k := k) (x := .free) rfl (PassSlot.fits_free.2 ⟨unfilled, unordered, ended k⟩) (fun _ _ => .rfl)
    (fun _ _ => .rfl) (fun j apart => iff_of_false (ended j) (by rw [sent]; exact apart.symm)) nodup

/-- R104, R149, R173: the end of an emission keeps the agreement, with the effect that the link of its message names. -/
theorem endEmission_agrees {s : State} (h : ServiceUnitAgrees s) {x : Emission}
    (emission : s.inbound.emission = some x) : ServiceUnitAgrees (endEmission x.source s) := by
  cases source : x.source with
  | slot k =>
    have notOwn : ¬s.inbound.sendingOwn := by
      rw [InboundUnit.sendingOwn_iff emission, source]
      exact nofun
    have ended : ¬(endEmission (.slot k) s).inbound.sendingOwn := InboundUnit.not_sendingOwn rfl
    exact ⟨h.slots.freed emission source, fun own => absurd own ended, h.box.congr rfl (iff_of_false ended notOwn),
      h.reset⟩
  | ownQueue =>
    have own := (InboundUnit.sendingOwn_iff emission).2 source
    obtain ⟨e, rest, queue⟩ := List.exists_cons_of_ne_nil (h.held own)
    have slots := h.slots.sentOff own rest
    have held := s.inbound.sentOff_held rest
    have linked := InboundUnit.linked_sentOff queue .resetReply
    have reset : e.link ≠ .resetReply → (s.inbound.sentOff rest).ServesReset s.executor.state := fun link => by
      rw [if_neg link, Nat.add_zero] at linked
      exact linked.symm.trans h.reset
    rw [endEmission_own queue]
    cases link : e.link with
    | plain => exact ⟨slots, held, h.box.sentOff own queue (by simp [link]), reset (by simp [link])⟩
    | inwardBox => exact ⟨slots, held, h.box.sentOff_own own queue link, reset (by simp [link])⟩
    | resetReply =>
      have waits : s.executor.state = .resetWait := by
        by_contra elsewhere
        have none := h.reset
        simp [InboundUnit.ServesReset, elsewhere, linked, link] at none
      simp only [emissionEffect, waits, if_true]
      exact nodeResetState_agrees slots held

/-- Everything that a report can do to the emission in progress: nothing, one chunk more sent, or its end. -/
theorem emissionReport_emission (c : Chunk) (s : State) :
    emissionReport c s = s ∨
    (∃ x, s.inbound.emission = some x ∧
      emissionReport c s = { s with inbound := { s.inbound with emission := some { x with sent := x.sent + 1 } } }) ∨
    (∃ x, s.inbound.emission = some x ∧ emissionReport c s = endEmission x.source s) := by
  unfold emissionReport
  split
  · exact .inl rfl
  · rename_i x emission
    split
    · exact .inl rfl
    · exact .inr (.inl ⟨x, emission, rfl⟩)
    · exact .inr (.inl ⟨x, emission, rfl⟩)
    · exact .inr (.inr ⟨x, emission, rfl⟩)
    · exact .inr (.inr ⟨x, emission, rfl⟩)

theorem emissionReport_agrees {s : State} (h : ServiceUnitAgrees s) (c : Chunk) :
    ServiceUnitAgrees (emissionReport c s) := by
  obtain e | ⟨x, emission, e⟩ | ⟨x, emission, e⟩ := emissionReport_emission c s <;> rw [e]
  · exact h
  · exact h.goesOn emission rfl
  · exact endEmission_agrees h emission

/-! ### The relay unit (R172, R174) -/

theorem buildNotice_agrees {s : State} (h : ServiceUnitAgrees s) : ServiceUnitAgrees (buildNotice s) := by
  unfold buildNotice
  split
  · have joined := h.joinPlain s.noticeMessage
    exact ⟨joined.slots, joined.held, joined.box, joined.reset⟩
  · exact h

/-- R172: a POSTED message is queued. -/
theorem queueRelayIn_agrees {s : State} (h : ServiceUnitAgrees s) : ServiceUnitAgrees (queueRelayIn s) := by
  unfold queueRelayIn
  split
  · rename_i p posted
    split
    · unfold ServiceUnitAgrees at h
      rw [posted] at h
      exact h.joinRelayIn _
    · exact h
  · exact h

/-- R174: a withdrawal leaves what is being sent, and no message of the inward box. -/
theorem InboundUnit.Agrees.withdrawn {u : InboundUnit} {p : List Byte} {state : ExecutorState}
    (h : u.Agrees (.queued p) state) : u.withdrawn.Agrees .empty state where
  slots := h.slots
  held sending := by
    have own : u.sendingOwn := sending
    obtain ⟨e, rest, queue⟩ := List.exists_cons_of_ne_nil (h.held own)
    obtain ⟨-, notSending⟩ := h.box
    have link : e.link ≠ .inwardBox := mt (InboundUnit.sendingLinked_iff own queue .inwardBox).2 notSending
    simp [InboundUnit.withdrawn, queue, link]
  box := by
    show u.withdrawn.linked .inwardBox = 0
    simp [InboundUnit.linked, InboundUnit.withdrawn, List.countP_eq_zero]
  reset := by
    have kept : u.withdrawn.linked .resetReply = u.linked .resetReply := by
      unfold InboundUnit.linked InboundUnit.withdrawn
      rw [List.countP_filter]
      refine List.countP_congr fun e _ => ?_
      cases e.link <;> decide
    exact kept.trans h.reset

/-- R174: a withdrawal empties a POSTED or QUEUED box. -/
theorem localWithdrawInward_agrees {s : State} (h : ServiceUnitAgrees s) (a : List Byte) :
    ServiceUnitAgrees (localWithdrawInward a s).1 := by
  unfold localWithdrawInward
  split
  · exact h
  · rename_i p posted
    unfold ServiceUnitAgrees at h
    rw [posted] at h
    exact ⟨h.slots, h.held, h.box, h.reset⟩
  · rename_i p queued
    unfold ServiceUnitAgrees at h
    rw [queued] at h
    exact h.withdrawn
  · exact h

/-! ### The requests (R92, R100, R103) -/

/-- The agreement reads the executor through RESET-WAIT alone. -/
theorem InboundUnit.Agrees.withState {u : InboundUnit} {box : InwardBox} {state state' : ExecutorState}
    (h : u.Agrees box state) (before : state ≠ .resetWait) (after : state' ≠ .resetWait) : u.Agrees box state' := by
  refine ⟨h.slots, h.held, h.box, ?_⟩
  have reset := h.reset
  simp only [InboundUnit.ServesReset, if_neg before, if_neg after] at reset ⊢
  exact reset

/-- R92: a request that leaves its queue leaves the agreement. -/
theorem Dealt.removed_agrees {s : State} {r : Request} {rest : List Request} (d : Dealt s r rest)
    (h : ServiceUnitAgrees s) : ServiceUnitAgrees (s.removed rest) :=
  InboundUnit.Agrees.withState h d.taking nofun

/-- R100: a reply joins without a link. -/
theorem answer_agrees {s : State} (h : ServiceUnitAgrees s) (source : Byte) (r : Request) (status : Status)
    (data : List Byte) : ServiceUnitAgrees (answer source r status data s) := by
  obtain ⟨-, e⟩ | ⟨-, _, -, e⟩ := answer_cases source r status data s <;> rw [e]
  · exact h
  · exact h.joinPlain _

/-- The effect of a request adds a message without a link at most. -/
theorem OwnFrame.agrees {r : Request} {s t : State} (f : OwnFrame r s t) (h : ServiceUnitAgrees s) :
    ServiceUnitAgrees t := by
  obtain ⟨_, _, _, _, _, _, _, _, _, _, executor, _, _, _, rfl, -, -, placed, -, state, -⟩ := f
  unfold ServiceUnitAgrees
  simp only [state]
  obtain rfl | ⟨_, _, rfl⟩ | ⟨-, -, m, -, rfl⟩ := placed
  · exact h
  · exact ⟨h.slots, h.held, h.box, h.reset⟩
  · exact h.joinPlain m

theorem execute_agrees {s : State} (h : ServiceUnitAgrees s) {k : RequestKind} {r : Request}
    (hk : readKind r.kind = some k) : ServiceUnitAgrees (execute k k.own r s) := by
  obtain ⟨_, e⟩ | ⟨t, _, hg, ho, e⟩ := execute_cases k k.own r s <;> rw [e]
  · exact answer_agrees h ..
  · exact answer_agrees ((own_frame k hk hg ho).agrees h) ..

/-- R103, R104: the reply of RESET NODE is recorded as the executor enters RESET-WAIT, and a broadcast one resets. -/
theorem executeResetNode_agrees {s : State} (h : ServiceUnitAgrees s) (taking : s.executor.state ≠ .resetWait)
    (r : Request) : ServiceUnitAgrees (executeResetNode r s) := by
  unfold executeResetNode
  split
  · exact answer_agrees h ..
  · exact nodeResetState_agrees h.slots h.held
  · have joined := h.joinReset taking (replyMessage s.executor.address r .ok [])
    simp only [placeReply]
    split <;> exact joined

theorem answerFromStore_agrees {s : State} (h : ServiceUnitAgrees s) (r : Request) :
    ServiceUnitAgrees (answerFromStore r s) := by
  unfold answerFromStore
  split
  · exact h.joinPlain _
  · exact h

/-! ### The operations (O59) -/

theorem serviceUnitAgrees_reset : ServiceUnitAgrees State.reset :=
  serviceUnitAgrees_iff.2 ⟨passBufferConsistent_reset, linksConsistent_reset⟩

theorem BoundaryFrame.agrees {s t : State} (f : BoundaryFrame s t) (h : ServiceUnitAgrees s) : ServiceUnitAgrees t := by
  obtain ⟨_, _, _, _, _, rfl⟩ := f
  exact h

/-- Reception leaves the queue and the emission alone. -/
theorem inboundReceive_agrees {s : State} (h : ServiceUnitAgrees s) (c : Chunk) :
    ServiceUnitAgrees (inboundReceive c s) := by
  have slots := inboundReceive_slotsFit h.slots c
  obtain ⟨_, _, _, _, _, _, e⟩ := inboundReceive_frame c s
  rw [e] at slots ⊢
  exact ⟨slots, h.held, h.box, h.reset⟩

theorem tailMiss_agrees {s : State} (h : ServiceUnitAgrees s) :
    ServiceUnitAgrees { s with inbound := s.inbound.tailMiss } := by
  have slots := h.slots.tailMiss
  obtain ⟨_, _, e⟩ := s.inbound.tailMiss_frame
  rw [e] at slots ⊢
  exact ⟨slots, h.held, h.box, h.reset⟩

theorem slotEffects_agrees {s : State} (h : ServiceUnitAgrees s) (plan : Plan) (slots : Slots) :
    ServiceUnitAgrees (slotEffects plan slots s) := by
  obtain ⟨_, _, -, e⟩ := slotEffects_frame plan slots s
  rw [e]
  exact h

theorem assembleChunk_agrees {s : State} (h : ServiceUnitAgrees s) (c : Chunk) :
    ServiceUnitAgrees (assembleChunk c s) := by
  obtain ⟨_, _, e, -⟩ := assembleChunk_frame c s
  rw [e]
  exact h

theorem localReadOutward_agrees {s : State} (h : ServiceUnitAgrees s) (a : List Byte) :
    ServiceUnitAgrees (localReadOutward a s).1 := by
  unfold localReadOutward
  split <;> exact h

/-- R171: a box that is filled is as little waited for as an EMPTY one. -/
theorem posted_agrees {s : State} (h : ServiceUnitAgrees s) (empty : s.relay.inward = .empty) (payload : List Byte) :
    ServiceUnitAgrees { s with relay := { s.relay with inward := .posted payload } } := by
  unfold ServiceUnitAgrees at h
  rw [empty] at h
  exact ⟨h.slots, h.held, h.box, h.reset⟩

/-- Every operation that the commands are made of keeps the agreement. -/
theorem serviceUnitAgrees_keptByOperations : KeptByOperations ServiceUnitAgrees where
  outside _ _ _ _ _ _ _ _ h := h
  deviceReset _ _ := serviceUnitAgrees_reset
  nodeReset _ h := nodeResetState_agrees h.slots h.held
  changeover n s h := (changeoverCheck_frame n s).agrees h
  refresh s h := (refreshCompletion_frame s).agrees h
  relayBoundary n s h := (relayBoundary_frame n s).agrees h
  exchange _ h := h
  slots plan slots _ h := slotEffects_agrees h plan slots
  assemble c _ h := assembleChunk_agrees h c
  select _ _ h := h
  receive c _ h := inboundReceive_agrees h c
  arbitrate _ h := arbitrate_agrees h
  tailMiss _ h := tailMiss_agrees h
  word _ _ _ h := h
  report c _ h := emissionReport_agrees h c
  notice _ h := buildNotice_agrees h
  relayIn _ h := queueRelayIn_agrees h
  readOutward _ h := localReadOutward_agrees h []
  postInward payload _ h empty _ _ := posted_agrees h empty payload
  withdrawInward _ h := localWithdrawInward_agrees h []
  waiting _ h taking := InboundUnit.Agrees.withState h taking nofun
  request _ _ _ _ h d hk _ := execute_agrees (d.removed_agrees h) hk
  resetNode _ r _ h d := executeResetNode_agrees (d.removed_agrees h) nofun r
  unknownKind _ _ _ h d := answer_agrees (d.removed_agrees h) ..
  stored _ r _ h d _ := answerFromStore_agrees (d.removed_agrees h) r

/-- Settles O59: the two invariants are one agreement (`serviceUnitAgrees_iff`), kept by the induction over the
operations (`KeptByOperations.step`). -/
theorem stepKeepsServiceUnitConsistent : Obligations.StepKeepsServiceUnitConsistent := by
  unfold Obligations.StepKeepsServiceUnitConsistent
  intro s t slots links hs
  have agrees := serviceUnitAgrees_iff.2 ⟨slots, links⟩
  exact serviceUnitAgrees_iff.1 (serviceUnitAgrees_keptByOperations.step (fun _ _ g => g) agrees hs)

end Sys2Proof.Machine
end

section
/-! PROOFS. The requests of the plan changeover, the address, the reads and the outward box (R109 to R129): ARM and CANCEL
CHANGEOVER, ASSIGN, RELEASE, ROLL CALL, the four reads, and RELAY OUT. -/

namespace Sys2Proof.Machine

open Sys2Proof.Claims

/-! ### General checks that pass, and the end of a broadcast (R96 to R98) -/

/-- A kind that is answered passes the general checks by its length alone when it is individually addressed. -/
theorem generalCheck_individual {k : RequestKind} {r : Request} (notOnly : broadcastOnly k = false)
    (individual : r.addressing = .individual) (length : LengthAllowed k r.payload) : generalCheck k r = none := by
  simp [generalCheck, individual, notOnly, (lengthFits_iff k r.payload).2 length]

/-- A kind that is executed as broadcast passes the general checks by its length alone when it is broadcast. -/
theorem generalCheck_broadcast {k : RequestKind} {r : Request} (allowed : allowsBroadcast k = true)
    (broadcast : r.addressing = .broadcast) (length : LengthAllowed k r.payload) : generalCheck k r = none := by
  simp [generalCheck, broadcast, allowed, (lengthFits_iff k r.payload).2 length]

/-- R94, R95: with room in the outgoing queue no request need wait. -/
theorem mustWait_of_few {s : State} (room : s.nonNotices < 5) (r : Request) : mustWait r s = false := by
  unfold mustWait
  cases r.addressing <;> simp [s.hasRoom_iff.2 room]

section

variable {k : RequestKind} {s : State} {r : Request} {rest : List Request}

/-- R96: a broadcast that its kind refuses is discarded. -/
theorem exec_broadcast_refuse (takes : Takes k.code s r rest) (ready : mustWait r s = false)
    (notReset : k ≠ .resetNode) (broadcast : r.addressing = .broadcast) (checked : generalCheck k r = none)
    {status : Status} (own : k.own r (taken s rest) = .refuse status) : exec (commandOf k) s = .next (taken s rest) := by
  rw [exec_commandOf_of_takes takes ready, RequestKind.deal_eq_execute notReset, execute_refuse checked own, answer,
    broadcast]

/-- R96: a broadcast that its kind executes has its effect and no answer. -/
theorem exec_broadcast_run (takes : Takes k.code s r rest) (ready : mustWait r s = false)
    (notReset : k ≠ .resetNode) (broadcast : r.addressing = .broadcast) (checked : generalCheck k r = none)
    {t : State} {data : List Byte} (own : k.own r (taken s rest) = .run t data) : exec (commandOf k) s = .next t := by
  rw [exec_commandOf_of_takes takes ready, RequestKind.deal_eq_execute notReset, execute_run checked own, answer,
    broadcast]

end

/-! ### Fields of several bytes -/

theorem threeBytes_readThree (b2 b1 b0 : Byte) : threeBytes (readThree b2 b1 b0) = [b2, b1, b0] := by
  have high : (readThree b2 b1 b0).extractLsb' 16 8 = b2 := by
    rw [readThree, BitVec.extractLsb'_append_eq_of_le (by decide)]
    exact BitVec.extractLsb'_append_eq_left
  have middle : (readThree b2 b1 b0).extractLsb' 8 8 = b1 := by
    rw [readThree, BitVec.extractLsb'_append_eq_of_le (by decide)]
    exact BitVec.extractLsb'_append_eq_right
  have low : (readThree b2 b1 b0).extractLsb' 0 8 = b0 := BitVec.extractLsb'_append_eq_right
  rw [threeBytes, high, middle, low]

/-- A narrow field carried in a wider one has zeros above it. -/
theorem zeroExtend_eq_append {v w : Nat} (x : BitVec w) : x.zeroExtend (v + w) = 0#v ++ x := by
  apply BitVec.eq_of_toNat_eq
  have fits : x.toNat < 2 ^ (v + w) := lt_of_lt_of_le x.isLt (Nat.pow_le_pow_right (by decide) (Nat.le_add_left w v))
  rw [BitVec.toNat_setWidth, BitVec.toNat_append, Nat.mod_eq_of_lt fits]
  simp

/-- What a request of two bytes reads of its payload. -/
theorem pair_payload {r : Request} {a b : Byte} (payload : r.payload = [a, b]) :
    byteAt r.payload 0 = a ∧ byteAt r.payload 1 = b := by
  rw [payload]
  exact ⟨rfl, rfl⟩

/-! ### ARM CHANGEOVER (R109, R110, R111) -/

/-- R2, R110: a superframe number lies ahead of another when it is at or after it and differs from it. -/
theorem atOrAfter_ne_iff (m n : Superframe) :
    (atOrAfter m n && m != n) = true ↔ 1 ≤ (m - n).toNat ∧ (m - n).toNat ≤ 8388607 := by
  simp only [atOrAfter, Bool.and_eq_true, decide_eq_true_eq, bne_iff_ne]
  bv_omega

theorem armOwn_busy {s : State} {r : Request} (h : s.plan.state = .split ∨ s.plan.state = .refresh) :
    armOwn r s = .refuse .busy := by
  rcases h with h | h <;> simp only [armOwn, h]

/-- R110, R111: in IDLE and ARMED the changeover is armed for a target ahead, and refused for a stale one. -/
theorem armOwn_eq {s : State} {r : Request} {b2 b1 b0 : Byte} (payload : r.payload = [b2, b1, b0])
    (h : s.plan.state = .idle ∨ s.plan.state = .armed) :
    armOwn r s =
      let target := readThree b2 b1 b0
      let ahead := (target - s.timing.number.superframe).toNat
      if 1 ≤ ahead ∧ ahead ≤ 8388607 then
        .run { s with plan := { s.plan with state := .armed, target := some target } }
          ([b2, b1, b0] ++ threeBytes s.timing.number.superframe ++ [0#2 ++ s.timing.number.index])
      else .refuse .stale := by
  have target : threeAt r.payload 0 = readThree b2 b1 b0 := by rw [payload]; rfl
  have index : s.timing.number.index.zeroExtend 8 = 0#2 ++ s.timing.number.index := zeroExtend_eq_append (v := 2) _
  simp only [← atOrAfter_ne_iff, ← threeBytes_readThree b2 b1 b0, ← index]
  rcases h with h | h <;> simp only [armOwn, h, target]

/-- Settles O31: the verdict by the changeover state (`armOwn_busy`) and the stale test (`armOwn_eq`). -/
theorem armChangeover : Obligations.ArmChangeover := by
  unfold Obligations.ArmChangeover
  intro s r rest b2 b1 b0 (takes : Takes RequestKind.armChangeover.code s r rest) payload target ahead
  have noReturn := placesReturn_of_takes takes (by decide)
  have checked : generalCheck .armChangeover r = none := generalCheck_eq_none rfl rfl (by rw [payload]; rfl)
  have own (h) := armOwn_eq (s := taken s rest) payload h
  refine ⟨fun h => ends_of_refuse takes noReturn rfl checked (armOwn_busy (s := taken s rest) h),
    fun h least most => ends_of_run takes noReturn rfl checked ((own h).trans (if_pos ⟨least, most⟩)),
    fun h stale => ?stale⟩
  case stale =>
    have behind : ¬(1 ≤ ahead ∧ ahead ≤ 8388607) := by omega
    exact ends_of_refuse takes noReturn rfl checked ((own h).trans (if_neg behind))

/-! ### CANCEL CHANGEOVER (R115) -/

theorem cancelOwn_armed {s : State} {r : Request} {target : Superframe} (h : s.plan.state = .armed)
    (armed : s.plan.target = some target) :
    cancelOwn r s = .run { s with plan := { s.plan with state := .idle, target := none } } (threeBytes target) := by
  simp only [cancelOwn, h, armed, Option.getD_some]

theorem cancelOwn_idle {s : State} {r : Request} (h : s.plan.state = .idle) : cancelOwn r s = .refuse .notArmed := by
  simp only [cancelOwn, h]

theorem cancelOwn_busy {s : State} {r : Request} (h : s.plan.state = .split ∨ s.plan.state = .refresh) :
    cancelOwn r s = .refuse .busy := by
  rcases h with h | h <;> simp only [cancelOwn, h]

/-- Settles O32: the verdict by the changeover state, and the end of the request by it. -/
theorem cancelChangeover : Obligations.CancelChangeover := by
  unfold Obligations.CancelChangeover
  intro s r rest (takes : Takes RequestKind.cancelChangeover.code s r rest) payload
  have noReturn := placesReturn_of_takes takes (by decide)
  have checked : generalCheck .cancelChangeover r = none := generalCheck_eq_none rfl rfl (by rw [payload]; rfl)
  have refused {status : Status} (own : cancelOwn r (taken s rest) = .refuse status) :
      Ends .cancelChangeover s r status.code [] (taken s rest) := ends_of_refuse takes noReturn rfl checked own
  have own {target} (h) (armed) := cancelOwn_armed (s := taken s rest) (r := r) (target := target) h armed
  exact ⟨fun target h armed => ends_of_run takes noReturn rfl checked (own h armed),
    fun h => refused (cancelOwn_idle h), fun h => refused (cancelOwn_busy h)⟩

/-! ### The node's own roll-call record and return (R129, R157, R158) -/

/-- R158: the record that a node puts into a roll call. -/
theorem rollCallRecord_eq (s : State) (hop : Nat) : s.rollCallRecord hop = ownRecord s (byteOf hop) := by
  have flags : s.recordFlags =
      (if s.tailPort.lock = .locked then 0x00 else 0x01) ||| (if s.plan.state = .armed then 0x02 else 0x00) |||
        (if s.port.channelLock then 0x04 else 0x00) := by
    unfold State.recordFlags
    cases s.tailPort.lock <;> cases s.plan.state <;> cases s.port.channelLock <;> decide
  rw [State.rollCallRecord, flags]
  rfl

/-- R129, R157: the return that a node builds with its own record. -/
theorem rollCallReturn_recorded (s : State) (scope sequence : Byte) :
    IsReturn s.executor.address sequence ([scope, 0x01, 0x01, 0x00] ++ ownRecord s 0x01)
      (s.rollCallReturn scope sequence true) := by
  refine ⟨rfl, rfl, rfl, rfl, ?_, buildMessage_check ..⟩
  rw [← show byteOf 1 = 0x01 from rfl, ← rollCallRecord_eq]
  rfl

/-- R129, R157: the return that a node builds without a record. -/
theorem rollCallReturn_empty (s : State) (scope sequence : Byte) :
    IsReturn s.executor.address sequence [scope, 0x01, 0x00, 0x00] (s.rollCallReturn scope sequence false) :=
  ⟨rfl, rfl, rfl, rfl, rfl, buildMessage_check ..⟩

/-! ### ASSIGN (R112, R113) -/

/-- What ASSIGN and RELEASE do to the node: its address changed, and the flag that says so (R113, R126). -/
def State.withAddress (s : State) (address : Byte) : State :=
  flagged { s with executor := { s.executor with address := address } } .addressChanged

section

variable {s : State} {r : Request} {identity : Identity} {address : Byte}

/-- What ASSIGN reads of its payload. -/
theorem assign_payload (payload : r.payload = sixBytes identity ++ [address]) :
    identityAt r.payload 0 = identity ∧ byteAt r.payload 6 = address := by
  rw [payload]
  exact ⟨identityAt_sixBytes identity [address], rfl⟩

/-- R112: an ASSIGN names the node by its identity, with an address of 1 to 62. -/
theorem assignNames_iff (payload : r.payload = sixBytes identity ++ [address]) :
    assignNames r s = true ↔ identity = s.identity ∧ 1 ≤ address.toNat ∧ address.toNat ≤ 62 := by
  obtain ⟨named, last⟩ := assign_payload payload
  rw [assignNames, named, last]
  simp [and_assoc]

/-- R95: an ASSIGN that does not name the node places no return. -/
theorem placesReturn_assign_eq_false (kind : r.kind = RequestKind.assign.code) (h : assignNames r s = false) :
    placesReturn r s = false := by
  simp [placesReturn, kind, h]

/-- R112: an ASSIGN of another identity runs without effect. -/
theorem assignOwn_other (payload : r.payload = sixBytes identity ++ [address]) (other : identity ≠ s.identity) :
    assignOwn r s = .run s [] := by
  obtain ⟨named, -⟩ := assign_payload payload
  rw [assignOwn, named, if_pos other]

/-- R113: an ASSIGN of this identity with an address outside 1 to 62 is refused. -/
theorem assignOwn_outOfRange (payload : r.payload = sixBytes identity ++ [address]) (same : identity = s.identity)
    (out : assignNames r s = false) : assignOwn r s = .refuse .outOfRange := by
  obtain ⟨named, -⟩ := assign_payload payload
  rw [assignOwn, named, if_neg (not_not_intro same), out]
  rfl

/-- R113: an ASSIGN that names the node sets its address and places the confirming return. -/
theorem assignOwn_named (payload : r.payload = sixBytes identity ++ [address]) (same : identity = s.identity)
    (names : assignNames r s = true) :
    assignOwn r s =
      .run (queued ((s.withAddress address).rollCallReturn 0x02 r.sequence true) (s.withAddress address)) [] := by
  obtain ⟨named, last⟩ := assign_payload payload
  rw [assignOwn, named, if_neg (not_not_intro same), if_pos names, last]
  rfl

end

/-- Settles O33: an ASSIGN that does not name the node changes nothing, and one that does has the effect of
`assignOwn_named`. -/
theorem assignSetsAddressAndConfirms : Obligations.AssignSetsAddressAndConfirms := by
  unfold Obligations.AssignSetsAddressAndConfirms
  intro s r rest identity address (takes : Takes RequestKind.assign.code s r rest) broadcast payload
  have ⟨_, _, kind, _⟩ := takes
  have checked : generalCheck .assign r = none := generalCheck_broadcast rfl broadcast (by rw [payload]; rfl)
  have names := assignNames_iff (s := s) payload
  have ready (out : assignNames r s = false) : mustWait r s = false :=
    mustWait_of_takes takes (placesReturn_assign_eq_false kind out)
  refine ⟨fun other => ?other, fun same bad => ?bad, fun same least most room => ?named⟩
  case other =>
    have out : assignNames r s = false := Bool.eq_false_iff.2 fun h => other (names.1 h).1
    exact exec_broadcast_run takes (ready out) (by decide) broadcast checked
      (assignOwn_other (s := taken s rest) payload other)
  case bad =>
    have out : assignNames r s = false := by
      rw [Bool.eq_false_iff, Ne, names]
      omega
    exact exec_broadcast_refuse takes (ready out) (by decide) broadcast checked
      (assignOwn_outOfRange (s := taken s rest) payload same out)
  case named =>
    refine ⟨_, rollCallReturn_recorded ((taken s rest).withAddress address) 0x02 r.sequence, ?_⟩
    exact exec_broadcast_run takes (mustWait_of_few room r) (by decide) broadcast checked
      (assignOwn_named (s := taken s rest) payload same (names.2 ⟨same, least, most⟩))

/-! ### RELEASE (R126) -/

/-- Settles O34: RELEASE passes its checks and runs, and its reply is under the address before it (`ends_of_run`). -/
theorem releaseGivesUpAddress : Obligations.ReleaseGivesUpAddress := by
  unfold Obligations.ReleaseGivesUpAddress
  intro s r rest (takes : Takes RequestKind.release.code s r rest) individual payload
  have own : releaseOwn r (taken s rest) = .run ((taken s rest).withAddress 0) [] := rfl
  exact ends_of_run takes (placesReturn_of_takes takes (by decide)) rfl
    (generalCheck_individual rfl individual payload) own

/-! ### ROLL CALL (R128, R129) -/

section

variable {s : State} {r : Request} {scope : Byte}

/-- R128: the scopes of a ROLL CALL are ALL and UNASSIGNED. -/
theorem rollCallScopeValid_iff (payload : r.payload = [scope]) : rollCallScopeValid r = true ↔ scope.toNat ≤ 1 := by
  have first : byteAt r.payload 0 = scope := by rw [payload]; rfl
  rw [rollCallScopeValid, first, Bool.or_eq_true, beq_iff_eq, beq_iff_eq, scopeAll, scopeUnassigned]
  bv_omega

/-- R95: a ROLL CALL of another scope, and one at a node whose tail side is in LOCKED, place no return. -/
theorem placesReturn_rollCall_eq_false (kind : r.kind = RequestKind.rollCall.code)
    (h : rollCallScopeValid r = false ∨ s.tailPort.lock = .locked) : placesReturn r s = false := by
  rcases h with h | h <;> simp [placesReturn, kind, h]

/-- R128: the scope admits the node's record when it is ALL or the node is unassigned. -/
theorem scopeAdmits_iff (valid : scope.toNat ≤ 1) :
    s.scopeAdmits scope = true ↔ scope = 0x00 ∨ s.executor.address = 0 := by
  have two : scope = 0x00 ∨ scope = 0x01 := by bv_omega
  rcases two with rfl | rfl <;> simp [State.scopeAdmits, scopeAll, scopeUnassigned, State.assigned]

theorem rollCallOwn_refused (invalid : rollCallScopeValid r = false) : rollCallOwn r s = .refuse .outOfRange := by
  rw [rollCallOwn, invalid]
  rfl

/-- R128: a node whose tail side is in LOCKED lets the roll call pass. -/
theorem rollCallOwn_locked (valid : rollCallScopeValid r = true) (locked : s.tailPort.lock = .locked) :
    rollCallOwn r s = .run s [] := by
  rw [rollCallOwn, if_pos valid, if_pos locked]

/-- R129: the node at the tail originates a return. -/
theorem rollCallOwn_tail (payload : r.payload = [scope]) (valid : rollCallScopeValid r = true)
    (tail : s.tailPort.lock ≠ .locked) :
    rollCallOwn r s = .run (queued (s.rollCallReturn scope r.sequence (s.scopeAdmits scope)) s) [] := by
  have first : byteAt r.payload 0 = scope := by rw [payload]; rfl
  rw [rollCallOwn, if_pos valid, if_neg tail, first]
  rfl

end

/-- Settles O41: the verdict by the scope and the tail-side lock, and the return with the record or without it. -/
theorem rollCallOriginatesAtTail : Obligations.RollCallOriginatesAtTail := by
  unfold Obligations.RollCallOriginatesAtTail
  intro s r rest scope (takes : Takes RequestKind.rollCall.code s r rest) broadcast payload
  have ⟨_, _, kind, _⟩ := takes
  have checked : generalCheck .rollCall r = none := generalCheck_broadcast rfl broadcast (by rw [payload]; rfl)
  refine ⟨fun h => ?passes, fun few tail room => ?tail⟩
  case passes =>
    cases valid : rollCallScopeValid r with
    | false =>
      have ready := mustWait_of_takes takes (placesReturn_rollCall_eq_false kind (.inl valid))
      exact exec_broadcast_refuse takes ready (by decide) broadcast checked (rollCallOwn_refused valid)
    | true =>
      have locked : s.tailPort.lock = .locked :=
        h.resolve_left (Nat.not_le.2 (Nat.lt_succ_of_le ((rollCallScopeValid_iff payload).1 valid)))
      have ready := mustWait_of_takes takes (placesReturn_rollCall_eq_false kind (.inr locked))
      exact exec_broadcast_run takes ready (by decide) broadcast checked
        (rollCallOwn_locked (s := taken s rest) valid locked)
  case tail =>
    have valid := (rollCallScopeValid_iff payload).2 few
    have admits := scopeAdmits_iff (s := taken s rest) few
    refine ⟨(taken s rest).rollCallReturn scope r.sequence ((taken s rest).scopeAdmits scope), ?_,
      exec_broadcast_run takes (mustWait_of_few room r) (by decide) broadcast checked
        (rollCallOwn_tail (s := taken s rest) payload valid tail)⟩
    split
    · rename_i admitted
      rw [admits.2 admitted]
      exact rollCallReturn_recorded (taken s rest) scope r.sequence
    · rename_i excluded
      rw [Bool.eq_false_iff.2 fun h => excluded (admits.1 h)]
      exact rollCallReturn_empty (taken s rest) scope r.sequence

/-! ### READ CHANNELS (R116) -/

/-- A position of the channel table fills five bytes. -/
theorem channelEntryBytes_length (ch : ChannelUnit) (position : Fin 16) :
    (channelEntryBytes ch position).length = 5 := by
  unfold channelEntryBytes
  split <;> rfl

section

variable {α β : Type} {f : α → List β} {n : Nat}

/-- Block i of blocks of one length, one after another. -/
theorem flatMap_block (block : ∀ a, (f a).length = n) (l : List α) (i : Nat) (h : i < l.length) :
    ((l.flatMap f).drop (n * i)).take n = f l[i] := by
  induction l generalizing i with
  | nil => simp at h
  | cons a l ih =>
    cases i with
    | zero => simp [← block a]
    | succ i =>
      have skip : n * (i + 1) = (f a).length + n * i := by rw [block a]; ring
      rw [List.flatMap_cons, skip, List.drop_length_add_append]
      exact ih i (by simpa using h)

end

/-- The bytes of a window of the channel table. -/
def ChannelUnit.window (ch : ChannelUnit) (first count : Nat) : List Byte :=
  (List.range count).flatMap fun i => channelEntryBytes ch (Fin.ofNat 16 (first + i))

theorem ChannelUnit.window_length (ch : ChannelUnit) (first count : Nat) :
    (ch.window first count).length = 5 * count := by
  simp [ChannelUnit.window, List.length_flatMap, channelEntryBytes_length, Nat.mul_comm]

/-- R116: entry i of a window is the entry of its position. -/
theorem ChannelUnit.window_entry (ch : ChannelUnit) {first count i : Nat} (h : first + i < 16) (hi : i < count) :
    ((ch.window first count).drop (5 * i)).take 5 = channelEntryBytes ch ⟨first + i, h⟩ := by
  have position : Fin.ofNat 16 (first + i) = ⟨first + i, h⟩ := Fin.ext (Nat.mod_eq_of_lt h)
  rw [ChannelUnit.window, flatMap_block (fun _ => channelEntryBytes_length ..) _ _ (by simpa using hi),
    List.getElem_range, position]

/-- R116: READ CHANNELS by its window. -/
theorem readChannelsOwn_eq {s : State} {r : Request} {first count : Byte} (payload : r.payload = [first, count]) :
    readChannelsOwn r s =
      if 1 ≤ count.toNat ∧ first.toNat + count.toNat ≤ 16 then
        .run s ([first, count] ++ s.chan.window first.toNat count.toNat)
      else .refuse .outOfRange := by
  obtain ⟨h0, h1⟩ := pair_payload payload
  simp only [readChannelsOwn, h0, h1, byteOf_byte]
  exact if_congr (by omega) rfl rfl

/-- Settles O35: the verdict by the window (`readChannelsOwn_eq`), and the window entry by entry. -/
theorem readChannelsReturnsWindow : Obligations.ReadChannelsReturnsWindow := by
  unfold Obligations.ReadChannelsReturnsWindow
  intro s r rest first count (takes : Takes RequestKind.readChannels.code s r rest) individual payload
  have noReturn := placesReturn_of_takes takes (by decide)
  have checked : generalCheck .readChannels r = none := generalCheck_individual rfl individual (by rw [payload]; rfl)
  have own := readChannelsOwn_eq (s := taken s rest) payload
  refine ⟨fun least most => ?_, fun invalid => ?_⟩
  · exact ⟨s.chan.window first.toNat count.toNat, s.chan.window_length _ _, fun i h hi => s.chan.window_entry h hi,
      ends_of_run takes noReturn rfl checked (own.trans (if_pos ⟨least, most⟩))⟩
  · have out : ¬(1 ≤ count.toNat ∧ first.toNat + count.toNat ≤ 16) := by omega
    exact ends_of_refuse takes noReturn rfl checked (own.trans (if_neg out))

/-! ### READ COUNTERS (R117, R118, R119) -/

theorem counterGroup_eq_none {group : Byte} (h : 3 ≤ group.toNat) (s : State) : counterGroup group s = none := by
  rw [counterGroup, if_neg (by bv_omega), if_neg (by bv_omega), if_neg (by bv_omega)]

section

variable {s : State} {r : Request} {group clear : Byte}

/-- R118, R119: a group that names counters is read, and set to 0 by the clear flag. -/
theorem readCountersOwn_named (payload : r.payload = [group, clear]) {counters : List Counter} {cleared : State}
    (counted : counterGroup group s = some (counters, cleared)) :
    readCountersOwn r s =
      if clear = 0x00 then .run s (group :: counters.flatMap twoBytes)
      else if clear = 0x01 then .run cleared (group :: counters.flatMap twoBytes)
      else .refuse .outOfRange := by
  obtain ⟨h0, h1⟩ := pair_payload payload
  simp only [readCountersOwn, h0, h1, counted]

/-- R117: a group or a clear flag that names nothing is refused. -/
theorem readCountersOwn_refused (payload : r.payload = [group, clear]) (h : 3 ≤ group.toNat ∨ 2 ≤ clear.toNat) :
    readCountersOwn r s = .refuse .outOfRange := by
  cases counted : counterGroup group s with
  | none =>
    obtain ⟨h0, -⟩ := pair_payload payload
    simp only [readCountersOwn, h0, counted]
  | some found =>
    have names : ¬3 ≤ group.toNat := fun g => by
      rw [counterGroup_eq_none g] at counted
      cases counted
    have large : 2 ≤ clear.toNat := h.resolve_left names
    have notKept : clear ≠ 0x00 := by bv_omega
    have notClearing : clear ≠ 0x01 := by bv_omega
    rw [readCountersOwn_named payload counted, if_neg notKept, if_neg notClearing]

end

/-- Settles O36: the end of the request by its clear flag, for whatever group it names; the three groups are those of
`counterGroup`. -/
theorem readCountersReturnsAndClears : Obligations.ReadCountersReturnsAndClears := by
  unfold Obligations.ReadCountersReturnsAndClears
  intro s r rest group clear (takes : Takes RequestKind.readCounters.code s r rest) individual payload
  have noReturn := placesReturn_of_takes takes (by decide)
  have checked : generalCheck .readCounters r = none := generalCheck_individual rfl individual (by rw [payload]; rfl)
  have kept {counters cleared} (named : counterGroup group (taken s rest) = some (counters, cleared))
      (keeps : clear = 0x00) : Ends .readCounters s r 0x00 (group :: counters.flatMap twoBytes) (taken s rest) :=
    ends_of_run takes noReturn rfl checked ((readCountersOwn_named payload named).trans (if_pos keeps))
  have clears {counters cleared} (named : counterGroup group (taken s rest) = some (counters, cleared))
      (clearing : clear = 0x01) : Ends .readCounters s r 0x00 (group :: counters.flatMap twoBytes) cleared :=
    ends_of_run takes noReturn rfl checked
      ((readCountersOwn_named payload named).trans (by rw [if_neg (by rw [clearing]; decide), if_pos clearing]))
  refine ⟨fun h => ends_of_refuse takes noReturn rfl checked (readCountersOwn_refused payload h),
    fun ports => ?ports, fun messages => ?messages, fun channels => ?channels⟩
  case ports =>
    subst ports
    exact ⟨kept rfl, clears rfl⟩
  case messages =>
    subst messages
    exact ⟨kept rfl, clears rfl⟩
  case channels =>
    subst channels
    exact ⟨kept rfl, fun clearing => ⟨s.chan.countersCleared,
      fun k => ⟨s.chan.countersCleared_input k, s.chan.countersCleared_output k⟩, rfl, clears rfl clearing⟩⟩

/-! ### READ PLAN (R120, R121) -/

theorem readBank_eq_none {b : Byte} (h : 2 ≤ b.toNat) : readBank b = none := by
  revert h
  decide +revert

@[simp] theorem readBank_code (n : BankName) : readBank n.code = some n := by
  cases n <;> decide

theorem PlanStore.ne_live_iff (p : PlanStore) (n : BankName) : n ≠ p.live ↔ n = p.draft := by
  unfold PlanStore.draft
  cases n <;> cases p.live <;> decide

/-- The bytes of a window of a plan. -/
def Plan.window (p : Plan) (first count : Nat) : List Byte :=
  ((p.toList.drop first).take count).map PlanEntry.byte

theorem Plan.window_length (p : Plan) {first count : Nat} (h : first + count ≤ 32) :
    (p.window first count).length = count := by
  simp only [Plan.window, List.length_map, List.length_take, List.length_drop, Vector.length_toList]
  omega

/-- R120: entry i of a window is the entry of its slot. -/
theorem Plan.window_entry (p : Plan) {first count i : Nat} (h : first + i < 32) (hi : i < count) :
    (p.window first count)[i]? = some p[first + i].byte := by
  simp [Plan.window, hi, h]

section

variable {s : State} {r : Request} {bank direction first count : Byte}

/-- What READ PLAN reads of its payload. -/
theorem readPlan_payload (payload : r.payload = [bank, direction, first, count]) :
    byteAt r.payload 0 = bank ∧ byteAt r.payload 1 = direction ∧ byteAt r.payload 2 = first ∧
      byteAt r.payload 3 = count := by
  rw [payload]
  exact ⟨rfl, rfl, rfl, rfl⟩

/-- R120: a bank or a direction that names nothing and an invalid window are refused. -/
theorem readPlanOwn_refused (payload : r.payload = [bank, direction, first, count])
    (h : 2 ≤ bank.toNat ∨ 2 ≤ direction.toNat ∨ count.toNat = 0 ∨ 32 < first.toNat + count.toNat) :
    readPlanOwn r s = .refuse .outOfRange := by
  obtain ⟨h0, h1, h2, h3⟩ := readPlan_payload payload
  simp only [readPlanOwn, h0, h1, h2, h3]
  split
  · rename_i n d hn hd
    have bankNames : ¬2 ≤ bank.toNat := fun g => by
      rw [readBank_eq_none g] at hn
      cases hn
    have directionNames : ¬2 ≤ direction.toNat := fun g => by
      rw [readDirection_eq_none g] at hd
      cases hd
    rw [if_neg]
    rw [planWindowValid_iff]
    omega
  · rfl

/-- R120, R121: a valid window is returned, but for one of the draft bank in REFRESH. -/
theorem readPlanOwn_window {name : BankName} {d : Direction} (payload : r.payload = [name.code, d.code, first, count])
    (least : 1 ≤ count.toNat) (most : first.toNat + count.toNat ≤ 32) :
    readPlanOwn r s =
      if name ≠ s.plan.live ∧ s.plan.state = .refresh then .refuse .busy
      else
        .run s ([name.code, s.plan.live.code, s.plan.state.code, d.code, first, count] ++
          ((s.plan.bank name).plan d).window first.toNat count.toNat) := by
  obtain ⟨h0, h1, h2, h3⟩ := readPlan_payload payload
  simp only [readPlanOwn, h0, h1, h2, h3, readBank_code, readDirection_code, byteOf_byte, PlanStore.ne_live_iff,
    (planWindowValid_iff _ _).2 ⟨least, most⟩, if_true]
  rfl

end

/-- Settles O37: the verdict of READ PLAN in each case, and the window entry by entry. -/
theorem readPlanReturnsWindow : Obligations.ReadPlanReturnsWindow := by
  unfold Obligations.ReadPlanReturnsWindow
  intro s r rest bank direction first count (takes : Takes RequestKind.readPlan.code s r rest) individual payload
  have noReturn := placesReturn_of_takes takes (by decide)
  have checked : generalCheck .readPlan r = none := generalCheck_individual rfl individual (by rw [payload]; rfl)
  refine ⟨fun h => ends_of_refuse takes noReturn rfl checked (readPlanOwn_refused payload h),
    fun name d named directed least most => ?window⟩
  subst named directed
  have own := readPlanOwn_window (s := taken s rest) payload least most
  refine ⟨fun draft refresh => ends_of_refuse takes noReturn rfl checked (own.trans (if_pos ⟨draft, refresh⟩)),
    fun readable => ?_⟩
  have free : ¬(name ≠ s.plan.live ∧ s.plan.state = .refresh) := fun ⟨draft, refresh⟩ =>
    readable.elim draft fun h => h refresh
  exact ⟨((s.plan.bank name).plan d).window first.toNat count.toNat, Plan.window_length _ most,
    fun i h hi => Plan.window_entry _ h hi, ends_of_run takes noReturn rfl checked (own.trans (if_neg free))⟩

/-! ### READ STATUS (R122, R123) -/

theorem statusRecord_length (s : State) : s.statusRecord.length = 38 := rfl

/-- R123: the current frame number, the live bank and the changeover state. -/
theorem statusRecord_frame (s : State) :
    (s.statusRecord.drop 10).take 6 = threeBytes s.timing.number.superframe ++
      [0#2 ++ s.timing.number.index, s.plan.live.code, s.plan.state.code] := by
  rw [← show s.timing.number.index.zeroExtend 8 = _ from zeroExtend_eq_append (v := 2) _]
  rfl

theorem statusRecord_target (s : State) :
    (s.statusRecord.drop 16).take 4 = flagByte s.plan.target.isSome :: threeBytes (s.plan.target.getD 0) := rfl

theorem statusRecord_applied (s : State) :
    (s.statusRecord.drop 20).take 5 =
      flagByte s.plan.applied.isSome :: threeBytes ((s.plan.applied.map Applied.superframe).getD 0) ++
        [flagByte ((s.plan.applied.map Applied.late).getD false)] := rfl

/-- R123: the outward box and its countdown. -/
theorem statusRecord_outward (s : State) :
    (s.statusRecord.drop 29).take 2 =
      [flagByte s.relay.outward.isSome, (s.relay.outward.map OutwardMessage.countdownByte).getD 0] := rfl

/-- R123, R193: the pending notices and the notices enabled. -/
theorem statusRecord_notices (s : State) :
    (s.statusRecord.drop 32).take 4 =
      twoBytes (0#6 ++ s.notices.kinds) ++ twoBytes (0#6 ++ s.executor.noticeEnable) := by
  have wide (x : BitVec 10) : x.zeroExtend 16 = 0#6 ++ x := zeroExtend_eq_append (v := 6) x
  rw [← wide, ← wide]
  rfl

/-- Settles O38: READ STATUS returns the status record of the state that the request has left, whose groups of bytes are
those of its definition, by the lemmas above where a field is widened or may be absent. -/
theorem readStatusReturnsRecord : Obligations.ReadStatusReturnsRecord := by
  unfold Obligations.ReadStatusReturnsRecord
  intro s r rest (takes : Takes RequestKind.readStatus.code s r rest) individual payload
  have ends : Ends .readStatus s r 0x00 (taken s rest).statusRecord (taken s rest) :=
    ends_of_run takes (placesReturn_of_takes takes (by decide)) rfl (generalCheck_individual rfl individual payload) rfl
  refine ⟨(taken s rest).statusRecord, ends, statusRecord_length _, rfl, rfl, statusRecord_frame _, fun none => ?_,
    fun target some => ?_, fun none => ?_, fun a some => ?_, rfl, fun none => ?_, fun box some => ?_, rfl,
    statusRecord_notices _, rfl⟩
  · rw [statusRecord_target, show (taken s rest).plan.target = _ from none]
    rfl
  · rw [statusRecord_target, show (taken s rest).plan.target = _ from some]
    rfl
  · rw [statusRecord_applied, show (taken s rest).plan.applied = _ from none]
    rfl
  · rw [statusRecord_applied, show (taken s rest).plan.applied = _ from some]
    rfl
  · rw [statusRecord_outward, show (taken s rest).relay.outward = _ from none]
    rfl
  · rw [statusRecord_outward, show (taken s rest).relay.outward = _ from some]
    rfl

/-! ### RELAY OUT (R124) -/

section

variable {s : State} {r : Request}

theorem relayOutOwn_full (held : s.relay.outward ≠ none) : relayOutOwn r s = .refuse .full := by
  obtain ⟨box, held⟩ := Option.ne_none_iff_exists'.1 held
  rw [relayOutOwn, held]

/-- R124: an EMPTY box takes the message with the countdown of the relay timeout. -/
theorem relayOutOwn_empty (empty : s.relay.outward = none) :
    relayOutOwn r s =
      .run
        (flagged { s with relay := { s.relay with
          outward := some { payload := r.payload, countdown := loadedCountdown s.executor.relayTimeout } } }
          .outwardArrived)
        [s.executor.relayTimeout] := by
  rw [relayOutOwn, empty]
  rfl

end

/-- Settles O39: the verdict by the outward box, and the countdown by the relay timeout. -/
theorem relayOutFillsBoxOrIsFull : Obligations.RelayOutFillsBoxOrIsFull := by
  unfold Obligations.RelayOutFillsBoxOrIsFull
  intro s r rest (takes : Takes RequestKind.relayOut.code s r rest) individual least most
  have noReturn := placesReturn_of_takes takes (by decide)
  have checked : generalCheck .relayOut r = none := generalCheck_individual rfl individual ⟨least, most⟩
  have filled (empty : s.relay.outward = none) :=
    ends_of_run (c := .relayOut) takes noReturn rfl checked (relayOutOwn_empty (s := taken s rest) empty)
  refine ⟨fun held => ends_of_refuse takes noReturn rfl checked (relayOutOwn_full (s := taken s rest) held),
    fun empty timed => ?timed, fun empty untimed => ?untimed⟩
  case timed =>
    have countdown : loadedCountdown s.executor.relayTimeout = some s.executor.relayTimeout := if_neg timed
    rw [← countdown]
    exact filled empty
  case untimed =>
    have countdown : loadedCountdown s.executor.relayTimeout = none := if_pos untimed
    rw [← countdown, show ([0x00] : List Byte) = [s.executor.relayTimeout] by rw [untimed]]
    exact filled empty

end Sys2Proof.Machine
end

section
/-! PROOFS. The inbound receiver: what one chunk does in each of its states, and the chunks of a message one after another
(R137 to R143). -/

namespace Sys2Proof.Machine

open Sys2Proof.Claims

/-! ### The tags of the chunks of a message (R77, R146) -/

section

variable {m : Message}

theorem Message.readTag_chunk (m : Message) (k : Nat) : readTag (m.chunk k).tag = chunkTag m.chunks k :=
  readTag_code _

theorem Message.readTag_only (single : m.chunks ≤ 1) (k : Nat) : readTag (m.chunk k).tag = .only := by
  rw [m.readTag_chunk, chunkTag, if_pos single]

theorem Message.readTag_first (several : 2 ≤ m.chunks) : readTag (m.chunk 0).tag = .first := by
  rw [m.readTag_chunk, chunkTag, if_neg (by omega), if_pos rfl]

theorem Message.readTag_middle {k : Nat} (later : 1 ≤ k) (more : k + 1 < m.chunks) :
    readTag (m.chunk k).tag = .middle := by
  rw [m.readTag_chunk, chunkTag, if_neg (by omega), if_neg (by omega), if_neg (by omega)]

theorem Message.readTag_last {k : Nat} (later : 1 ≤ k) (last : k + 1 = m.chunks) :
    readTag (m.chunk k).tag = .last := by
  rw [m.readTag_chunk, chunkTag, if_neg (by omega), if_neg (by omega), if_pos last]

/-- R139: the lengths that fit ONLY. -/
theorem openingOf_only (length : Nat) : openingOf true length = if length ≤ 1 then .whole else .misfit :=
  rfl

/-- R139: the lengths that fit FIRST. -/
theorem openingOf_first (length : Nat) :
    openingOf false length = if 2 ≤ length ∧ length ≤ 120 then .begins else .misfit :=
  rfl

/-- R139: the first chunk of a message announces a length that fits its tag. -/
theorem Message.opening_whole (short : m.payload.length < 2) : openingOf true (m.chunk 0).announcedLength = .whole := by
  rw [m.chunk_announcedLength (by omega), openingOf_only, if_pos (by omega)]

theorem Message.opening_begins (least : 2 ≤ m.payload.length) (most : m.payload.length ≤ 120) :
    openingOf false (m.chunk 0).announcedLength = .begins := by
  rw [m.chunk_announcedLength (by omega), openingOf_first, if_pos ⟨least, most⟩]

end

/-! ### The slot that a message claims (R139) -/

section

variable {u : InboundUnit}

theorem InboundUnit.freeSlot_eq_some {k : Fin 2} (free : u.slots[k] = .free)
    (lowest : ∀ j : Fin 2, j < k → u.slots[j] ≠ .free) : u.freeSlot = some k := by
  match k with
  | 0 => exact if_pos free
  | 1 => exact (if_neg (lowest 0 (by decide))).trans (if_pos free)

theorem InboundUnit.freeSlot_eq_none (taken : ∀ k : Fin 2, u.slots[k] ≠ .free) : u.freeSlot = none :=
  (if_neg (taken 0)).trans (if_neg (taken 1))

theorem InboundUnit.setSlot_setSlot (k : Fin 2) (x y : PassSlot) : (u.setSlot k x).setSlot k y = u.setSlot k y := by
  simp [InboundUnit.setSlot]

end

/-! ### A chunk that the receiver takes in IDLE (R139, R140) -/

section

variable {c : Chunk} {s : State}

theorem inboundReceive_idle (idle : s.inbound.rx = .idle) (c : Chunk) : inboundReceive c s = inboundIdle c s := by
  rw [inboundReceive, idle]

/-- R140, R143: MIDDLE and LAST break the order, and a misfit the length. -/
theorem inboundIdle_error (h : c.tag = 0x02 ∨ c.tag = 0x03 ∨ Misfit c) (s : State) :
    inboundIdle c s = { s with inbound := s.inbound.checkError } := by
  have announced : c.announcedLength = c.content[4].toNat := rfl
  obtain tag | tag | ⟨tag, length⟩ | ⟨tag, length⟩ := h
  · rw [inboundIdle, show readTag c.tag = .middle from tag ▸ rfl]
  · rw [inboundIdle, show readTag c.tag = .last from tag ▸ rfl]
  · have misfit : openingOf true c.announcedLength = .misfit := by rw [openingOf_only, if_neg (by omega)]
    rw [inboundIdle, show readTag c.tag = .only from tag ▸ rfl]
    simp only [beginPass, misfit]
  · have misfit : openingOf false c.announcedLength = .misfit := by rw [openingOf_first, if_neg (by omega)]
    rw [inboundIdle, show readTag c.tag = .first from tag ▸ rfl]
    simp only [beginPass, misfit]

theorem checkError_eq_inboundError (idle : s.inbound.rx = .idle) :
    { s with inbound := s.inbound.checkError } = inboundError .idle s.inbound.slots s := by
  rw [← idle]
  rfl

/-- R139, R140: what the receiver in IDLE makes of a chunk that begins no message. -/
theorem inboundReceive_inIdle (idle : s.inbound.rx = .idle) :
    (ReadAsIdle c.tag → inboundReceive c s = s) ∧
      (c.tag = 0x02 ∨ c.tag = 0x03 ∨ Misfit c → inboundReceive c s = inboundError .idle s.inbound.slots s) := by
  rw [inboundReceive_idle idle]
  exact ⟨fun tag => by rw [inboundIdle, readTag_of_readAsIdle tag],
    fun h => (inboundIdle_error h s).trans (checkError_eq_inboundError idle)⟩

/-- R139: an ONLY chunk of a length that fits is a whole message. -/
theorem inboundIdle_only (tag : readTag c.tag = .only) (fits : openingOf true c.announcedLength = .whole) (s : State) :
    inboundIdle c s = match s.inbound.freeSlot with
      | some k => passCompletion k c.content.toList s
      | none => passDrop c s := by
  rw [inboundIdle, tag]
  simp only [beginPass, fits]
  cases s.inbound.freeSlot <;> rfl

/-- R139: a FIRST chunk of a length that fits begins a message. -/
theorem inboundIdle_first (tag : readTag c.tag = .first) (fits : openingOf false c.announcedLength = .begins)
    (s : State) : inboundIdle c s = match s.inbound.freeSlot with
      | some k => { s with inbound := { s.inbound.setSlot k (.receiving c.content.toList) with
          rx := .receiving k 1 (chunkCount c.announcedLength) } }
      | none => { passDrop c s with inbound := { (passDrop c s).inbound with rx := .discarding } } := by
  rw [inboundIdle, tag]
  simp only [beginPass, fits]
  cases s.inbound.freeSlot <;> rfl

/-! ### A chunk of a message that is dropped (R139) -/

theorem inboundReceive_discards (discarding : s.inbound.rx = .discarding) (tag : readTag c.tag = .middle) :
    inboundReceive c s = s := by
  simp only [inboundReceive, discarding, tag]

theorem inboundReceive_endsDiscard (discarding : s.inbound.rx = .discarding)
    (tag : readTag c.tag = .last ∨ readTag c.tag = .idle) :
    inboundReceive c s = { s with inbound := { s.inbound with rx := .idle } } := by
  obtain tag | tag := tag <;> simp only [inboundReceive, discarding, tag]

/-- R140: a chunk that begins a message ends the discard, and is taken in IDLE. -/
theorem inboundReceive_opensAfterDiscard (discarding : s.inbound.rx = .discarding) (opens : c.opens) :
    inboundReceive c s = inboundReceive c { s with inbound := { s.inbound with rx := .idle } } := by
  obtain tag | tag := opens <;> simp only [inboundReceive, discarding, tag]

/-- Everything that a chunk can do to a receiver that discards. -/
theorem inboundReceive_discarding_cases (discarding : s.inbound.rx = .discarding) (c : Chunk) :
    let ended : State := { s with inbound := { s.inbound with rx := .idle } }
    inboundReceive c s = s ∨ inboundReceive c s = ended ∨ inboundReceive c s = inboundIdle c ended := by
  cases tag : readTag c.tag with
  | middle => exact .inl (inboundReceive_discards discarding tag)
  | last => exact .inr (.inl (inboundReceive_endsDiscard discarding (.inl tag)))
  | idle => exact .inr (.inl (inboundReceive_endsDiscard discarding (.inr tag)))
  | first => exact .inr (.inr (inboundReceive_opensAfterDiscard discarding (.inl tag)))
  | only => exact .inr (.inr (inboundReceive_opensAfterDiscard discarding (.inr tag)))

/-! ### A chunk of a message that a slot receives (R140) -/

section

variable {k : Fin 2} {received expected : Nat}

theorem inboundReceive_middle (rx : s.inbound.rx = .receiving k received expected) (tag : readTag c.tag = .middle)
    (more : received + 1 < expected) :
    inboundReceive c s = { s with inbound :=
      { s.inbound.setSlot k (.receiving (s.inbound.slots[k].received ++ c.content.toList)) with
        rx := .receiving k (received + 1) expected } } := by
  simp only [inboundReceive, rx, tag, if_pos more]

theorem inboundReceive_last (rx : s.inbound.rx = .receiving k received expected) (tag : readTag c.tag = .last)
    (last : received + 1 = expected) :
    inboundReceive c s = passCompletion k (s.inbound.slots[k].received ++ c.content.toList)
      { s with inbound := { s.inbound with rx := .idle } } := by
  simp only [inboundReceive, rx, tag, if_pos last]

/-- R140, R143: an IDLE chunk, MIDDLE where the last chunk is due, and LAST anywhere else give the message up. -/
theorem inboundReceive_broken (rx : s.inbound.rx = .receiving k received expected)
    (h : readTag c.tag = .idle ∨ (readTag c.tag = .middle ∧ expected ≤ received + 1) ∨
      (readTag c.tag = .last ∧ received + 1 ≠ expected)) :
    inboundReceive c s = inboundError .idle (s.inbound.slots.set k .free) s := by
  obtain tag | ⟨tag, due⟩ | ⟨tag, elsewhere⟩ := h
  · simp only [inboundReceive, rx, tag]
    rfl
  · simp only [inboundReceive, rx, tag, if_neg (Nat.not_lt.2 due)]
    rfl
  · simp only [inboundReceive, rx, tag, if_neg elsewhere]
    rfl

/-- R140: a chunk that begins a message gives up the one being received, and is taken in IDLE. -/
theorem inboundReceive_opensAfterBreak (rx : s.inbound.rx = .receiving k received expected) (opens : c.opens) :
    inboundReceive c s = inboundReceive c (inboundError .idle (s.inbound.slots.set k .free) s) := by
  obtain tag | tag := opens <;> simp only [inboundReceive, rx, tag] <;> rfl

/-- Everything that a chunk can do to a receiver that fills slot k: the slot takes the chunk, its message is complete, it is
given up, or it is given up and the chunk is taken in IDLE. -/
theorem inboundReceive_receiving_cases (rx : s.inbound.rx = .receiving k received expected) (c : Chunk) :
    let broken := inboundError .idle (s.inbound.slots.set k .free) s
    (∃ bytes n, inboundReceive c s =
      { s with inbound := { s.inbound.setSlot k (.receiving bytes) with rx := .receiving k n expected } }) ∨
    (∃ bytes, inboundReceive c s =
      passCompletion k bytes { s with inbound := { s.inbound with rx := .idle } }) ∨
    inboundReceive c s = broken ∨ inboundReceive c s = inboundIdle c broken := by
  cases tag : readTag c.tag with
  | middle =>
    obtain more | due := Nat.lt_or_ge (received + 1) expected
    · exact .inl ⟨_, _, inboundReceive_middle rx tag more⟩
    · exact .inr (.inr (.inl (inboundReceive_broken rx (.inr (.inl ⟨tag, due⟩)))))
  | last =>
    by_cases last : received + 1 = expected
    · exact .inr (.inl ⟨_, inboundReceive_last rx tag last⟩)
    · exact .inr (.inr (.inl (inboundReceive_broken rx (.inr (.inr ⟨tag, last⟩)))))
  | idle => exact .inr (.inr (.inl (inboundReceive_broken rx (.inl tag))))
  | first => exact .inr (.inr (.inr (inboundReceive_opensAfterBreak rx (.inl tag))))
  | only => exact .inr (.inr (.inr (inboundReceive_opensAfterBreak rx (.inr tag))))

end

theorem Chunk.opens_of_tag (h : c.tag = 0x01 ∨ c.tag = 0x04) : c.opens := by
  obtain tag | tag := h
  · exact .inl (tag ▸ rfl)
  · exact .inr (tag ▸ rfl)

end

/-! ### A message is complete (R141, R143) -/

section

variable {bytes : List Byte} {m : Message} {s : State}

theorem State.passThrough_of_other (other : m.kind ≠ 0x82) (s : State) : s.passThrough m = some m :=
  if_neg other

theorem passCompletion_stores (k : Fin 2) (read : readMessage bytes = m) (intact : m.check = messageCheck m.body)
    {x : Message} (through : s.passThrough m = some x) :
    passCompletion k bytes s =
      { s with inbound := { s.inbound.setSlot k (.complete x) with order := s.inbound.order ++ [k] } } := by
  have good : m.intact = true := beq_iff_eq.2 intact.symm
  simp only [passCompletion, read, good, through, if_true]

theorem passCompletion_refuses (k : Fin 2) (read : readMessage bytes = m)
    (h : m.check ≠ messageCheck m.body ∨ s.passThrough m = none) :
    passCompletion k bytes s = { s with inbound := (s.inbound.setSlot k .free).checkError } := by
  have none : (if m.intact then s.passThrough m else none) = none := by
    obtain spoiled | through := h
    · exact if_neg fun good => spoiled (beq_iff_eq.1 good).symm
    · rw [through, ite_self]
  simp only [passCompletion, read, none]

/-- The completion of a message reads nothing of the slot that it fills. -/
theorem passCompletion_setSlot (k : Fin 2) (x : PassSlot) :
    passCompletion k bytes { s with inbound := s.inbound.setSlot k x } = passCompletion k bytes s := by
  have through (m : Message) : State.passThrough { s with inbound := s.inbound.setSlot k x } m = s.passThrough m := rfl
  simp only [passCompletion, through, InboundUnit.setSlot_setSlot]
  split <;> rfl

end

/-! ### The chunks of a message, one after another (R138 to R141) -/

section

variable {m : Message} {s : State}

/-- The first chunk and the middle ones lead the receiver through the given states to the last chunk. -/
theorem receivedWhole_of_states (several : 2 ≤ m.chunks) (states : Nat → State)
    (first : inboundReceive (m.chunk 0) s = states 1)
    (middle : ∀ k, 1 ≤ k → k + 1 < m.chunks → inboundReceive (m.chunk k) (states k) = states (k + 1)) :
    ∃ k, 1 ≤ k ∧ k + 1 = m.chunks ∧ receivedWhole m s = inboundReceive (m.chunk k) (states k) := by
  have soFar {k : Nat} (later : 1 ≤ k) : k < m.chunks →
      (List.range k).foldl (fun t j => inboundReceive (m.chunk j) t) s = states k := by
    induction k, later using Nat.le_induction with
    | base => exact fun _ => first
    | succ k later ih =>
      intro more
      rw [List.range_succ, List.foldl_append, ih (by omega)]
      exact middle k later more
  obtain ⟨k, last⟩ : ∃ k, m.chunks = k + 1 := ⟨m.chunks - 1, by omega⟩
  refine ⟨k, by omega, last.symm, ?_⟩
  rw [receivedWhole, last, List.range_succ, List.foldl_append, soFar (by omega) (by omega)]
  rfl

theorem receivedWhole_single (single : m.chunks = 1) : receivedWhole m s = inboundReceive (m.chunk 0) s := by
  rw [receivedWhole, single]
  rfl

theorem Message.chunks_single (short : m.payload.length < 2) : m.chunks = 1 := by
  rw [m.chunks_eq]
  omega

theorem Message.chunks_several (least : 2 ≤ m.payload.length) : 2 ≤ m.chunks := by
  rw [m.chunks_eq]
  omega

/-- The node whose inbound receiver has the first n chunks of a message in slot k. -/
def State.receivingIn (s : State) (k : Fin 2) (m : Message) (n : Nat) : State :=
  { s with inbound := { s.inbound.setSlot k (.receiving (m.carried n)) with rx := .receiving k n m.chunks } }

/-- R139 to R141: a message that finds a FREE slot is completed in it. -/
theorem receivedWhole_completes (most : m.payload.length ≤ 120) (idle : s.inbound.rx = .idle) {k : Fin 2}
    (slot : s.inbound.freeSlot = some k) : receivedWhole m s = passCompletion k (m.carried m.chunks) s := by
  have announced := m.chunk_announcedLength (by omega)
  obtain short | least := Nat.lt_or_ge m.payload.length 2
  · have single := Message.chunks_single short
    rw [receivedWhole_single single, inboundReceive_idle idle,
      inboundIdle_only (Message.readTag_only single.le 0) (Message.opening_whole short), slot, single, m.carried_one]
  · have several := Message.chunks_several least
    have carried (n : Nat) : (s.receivingIn k m n).inbound.slots[k].received = m.carried n := by
      simp [State.receivingIn, PassSlot.received]
    obtain ⟨n, later, last, whole⟩ := receivedWhole_of_states several (s.receivingIn k m)
      (by
        rw [inboundReceive_idle idle, inboundIdle_first (Message.readTag_first several)
          (Message.opening_begins least most), slot, announced, State.receivingIn, m.carried_one]
        rfl)
      (fun n later more => by
        rw [inboundReceive_middle rfl (Message.readTag_middle later more) more, carried, ← m.carried_succ]
        simp only [State.receivingIn, InboundUnit.setSlot, Vector.set_set])
    rw [whole, inboundReceive_last rfl (Message.readTag_last later last) last, carried, ← m.carried_succ, last,
      ← passCompletion_setSlot (s := s) k (.receiving (m.carried n))]
    simp only [State.receivingIn, InboundUnit.setSlot, idle]

/-- R139: a message that finds no FREE slot is dropped, and its chunks are ignored to its last. -/
theorem receivedWhole_dropped (most : m.payload.length ≤ 120) (idle : s.inbound.rx = .idle)
    (none : s.inbound.freeSlot = none) : receivedWhole m s = passDrop (m.chunk 0) s := by
  obtain short | least := Nat.lt_or_ge m.payload.length 2
  · have single := Message.chunks_single short
    rw [receivedWhole_single single, inboundReceive_idle idle,
      inboundIdle_only (Message.readTag_only single.le 0) (Message.opening_whole short), none]
  · have several := Message.chunks_several least
    obtain ⟨n, later, last, whole⟩ := receivedWhole_of_states (s := s) several
      (fun _ => { passDrop (m.chunk 0) s with
        inbound := { (passDrop (m.chunk 0) s).inbound with rx := .discarding } })
      (by rw [inboundReceive_idle idle, inboundIdle_first (Message.readTag_first several)
        (Message.opening_begins least most), none])
      (fun n later more => inboundReceive_discards rfl (Message.readTag_middle later more))
    rw [whole, inboundReceive_endsDiscard rfl (.inl (Message.readTag_last later last)), ← idle]
    rfl

end

/-- Settles O27: a whole message by `receivedWhole_completes` and its reading back (`readMessage_bytes`), or by
`receivedWhole_dropped`; and one chunk by the state of the receiver and the tag. -/
theorem passThroughStoresMessageWhole : Obligations.PassThroughStoresMessageWhole := by
  unfold Obligations.PassThroughStoresMessageWhole
  refine ⟨fun m s most idle => ⟨fun k free lowest => ?stored, fun taken => ?dropped⟩,
    fun c s => ⟨inboundReceive_inIdle, fun discarding => ?discarding, fun k received expected rx => ?receiving⟩⟩
  case stored =>
    obtain ⟨padding, carried⟩ := m.carried_chunks
    have read : readMessage (m.carried m.chunks) = m := carried ▸ readMessage_bytes m (by omega) padding
    rw [receivedWhole_completes most idle (InboundUnit.freeSlot_eq_some free lowest)]
    refine ⟨fun intact other => passCompletion_stores k read intact (s.passThrough_of_other other),
      fun x intact _ through => passCompletion_stores k read intact through, fun refused => ?_⟩
    have error := checkError_eq_inboundError (s := { s with inbound := s.inbound.setSlot k .free }) idle
    exact (passCompletion_refuses k read (refused.imp_right And.right)).trans error
  case dropped =>
    exact receivedWhole_dropped most idle (InboundUnit.freeSlot_eq_none taken)
  case discarding =>
    exact ⟨fun tag => inboundReceive_discards discarding (tag ▸ rfl),
      fun tag => inboundReceive_endsDiscard discarding (tag.imp (fun last => by rw [last]; rfl) readTag_of_readAsIdle),
      fun tag => inboundReceive_opensAfterDiscard discarding (Chunk.opens_of_tag tag)⟩
  case receiving =>
    exact ⟨fun tag => inboundReceive_broken rx (.inl (readTag_of_readAsIdle tag)),
      fun bytes tag more slot => by
        rw [inboundReceive_middle rx (tag ▸ rfl) more, slot]
        rfl,
      fun tag due => inboundReceive_broken rx (.inr (.inl ⟨tag ▸ rfl, due⟩)),
      fun tag elsewhere => inboundReceive_broken rx (.inr (.inr ⟨tag ▸ rfl, elsewhere⟩)),
      fun tag => inboundReceive_opensAfterBreak rx (Chunk.opens_of_tag tag)⟩

end Sys2Proof.Machine
end

section
/-! PROOFS. The inbound arbiter: what it decides with no emission in progress and with one, and the inbound frame that
carries its chunk (R147, R148, R173). -/

namespace Sys2Proof.Machine

open Sys2Proof.Claims

/-! ### What the arbiter decides (R147, R148) -/

section

variable {s : State} {e : Emission} {m : Message}

theorem InboundUnit.passCandidate_none {u : InboundUnit} (order : u.order = []) : u.passCandidate = none := by
  rw [InboundUnit.passCandidate, order]

theorem InboundUnit.passCandidate_complete {u : InboundUnit} {k : Fin 2} {rest : List (Fin 2)}
    (order : u.order = k :: rest) (slot : u.slots[k] = .complete m) : u.passCandidate = some (k, m) := by
  simp only [InboundUnit.passCandidate, order, slot, PassSlot.message, Option.map_some]

theorem arbitrate_noCandidate (idle : s.inbound.emission = none) (order : s.inbound.order = [])
    (queue : s.inbound.queue = []) : arbitrate s = (idleChunk, s) := by
  simp only [arbitrate, idle, InboundUnit.passCandidate_none order, queue]
  rfl

/-- R147: a pass-through message wins when it is alone or the node's own won last. -/
theorem arbitrate_pass (idle : s.inbound.emission = none) {k : Fin 2} (candidate : s.inbound.passCandidate = some (k, m))
    (turn : s.inbound.queue = [] ∨ s.inbound.lastWinner = .ownQueue) : arbitrate s = startPass k m s := by
  simp only [arbitrate, idle, candidate]
  obtain queue | last := turn
  · rw [queue]
  · rw [last]
    cases s.inbound.queue <;> rfl

/-- R147: the oldest outgoing message wins when it is alone or a pass-through message won last. -/
theorem arbitrate_own (idle : s.inbound.emission = none) {x : OutEntry} {rest : List OutEntry}
    (queue : s.inbound.queue = x :: rest) (turn : s.inbound.order = [] ∨ s.inbound.lastWinner = .passThrough) :
    arbitrate s = startOwn x s := by
  simp only [arbitrate, idle, queue]
  obtain order | last := turn
  · rw [InboundUnit.passCandidate_none order]
  · rw [last]
    cases s.inbound.passCandidate <;> rfl

/-- R173: the inward box turns from QUEUED to SENDING with its message. -/
theorem startOwn_relay_queued {x : OutEntry} {p : List Byte} (link : x.link = .inwardBox)
    (box : s.relay.inward = .queued p) : (startOwn x s).2.relay = { s.relay with inward := .sending p } := by
  simp only [startOwn, link, box]

/-- R148: while chunks remain, the next one is placed. -/
theorem arbitrate_places (emission : s.inbound.emission = some e) (message : s.inbound.emitted e = some m)
    (more : e.placed < m.chunks) :
    arbitrate s = (m.chunk e.placed,
      { s with inbound := { s.inbound with emission := some { e with placed := e.placed + 1 } } }) := by
  simp only [arbitrate, emission, message, if_pos more]

/-- R148: when all chunks have been placed, an emission in progress leaves the frame IDLE. -/
theorem arbitrate_placed (emission : s.inbound.emission = some e) (message : s.inbound.emitted e = some m)
    (all : m.chunks ≤ e.placed) : arbitrate s = (idleChunk, s) := by
  simp only [arbitrate, emission, message, if_neg (Nat.not_lt.2 all)]
  rfl

theorem emits_slot {u : InboundUnit} {k : Fin 2} (source : e.source = .slot k) :
    Emits u e m ↔ u.slots[k] = .sending m := by
  simp only [Emits, source]

theorem emits_own {u : InboundUnit} (source : e.source = .ownQueue) :
    Emits u e m ↔ ∃ x rest, u.queue = x :: rest ∧ x.message = m := by
  simp only [Emits, source]

/-- The message that an emission sends is the one that the arbiter finds. -/
theorem emitted_of_emits {u : InboundUnit} (h : Emits u e m) : u.emitted e = some m := by
  cases source : e.source with
  | slot k =>
    have slot := (emits_slot source).1 h
    simp only [InboundUnit.emitted, source, slot, PassSlot.message]
  | ownQueue =>
    obtain ⟨x, rest, queue, rfl⟩ := (emits_own source).1 h
    simp only [InboundUnit.emitted, source, queue, List.head?_cons, Option.map_some]

end

/-! ### The inbound frame that carries the chunk (R20) -/

/-- The frame carries the chunk that the arbiter decides once the received chunk is handed on, and the inbound unit and the
relay unit are what the arbiter leaves. -/
theorem inboundFrameEvent_arbitrate (f : Frame) {received : Option Chunk} {s u : State} {c : Chunk}
    (decided : arbitrate (handedOn received s) = (c, u)) :
    let t := inboundFrameEvent f received s
    (∃ g : Frame, t.wires.headTx = s.wires.headTx ++ [g] ∧ g.chunk = c) ∧ t.inbound = u.inbound ∧
      t.relay = u.relay := by
  rw [inboundFrameEvent_eq, decided]
  exact ⟨⟨_, rfl, rfl⟩, rfl, rfl⟩

theorem handedOn_frame (received : Option Chunk) (s : State) : ReceptionFrame s (handedOn received s) := by
  cases received with
  | none => exact .refl s
  | some c => exact inboundReceive_frame c s

theorem handedOn_emission (received : Option Chunk) (s : State) :
    (handedOn received s).inbound.emission = s.inbound.emission := by
  obtain ⟨_, _, _, _, _, _, h⟩ := handedOn_frame received s
  rw [h]

theorem handedOn_queue (received : Option Chunk) (s : State) :
    (handedOn received s).inbound.queue = s.inbound.queue := by
  obtain ⟨_, _, _, _, _, _, h⟩ := handedOn_frame received s
  rw [h]

/-- Settles O46: each clause is one decision of the arbiter (`arbitrate_noCandidate`, `arbitrate_pass`,
`arbitrate_own`), which the inbound frame carries (`inboundFrameEvent_arbitrate`). -/
theorem arbiterStartsByAlternation : Obligations.ArbiterStartsByAlternation := by
  unfold Obligations.ArbiterStartsByAlternation
  intro f received s noEmission v t carries
  have idle : v.inbound.emission = none := (handedOn_emission received s).trans noEmission
  have relayKept : v.relay = s.relay := handedOn_relay received s
  refine ⟨fun order queue => ?nothing, fun k ks m order slot turn => ?pass, fun x rest queue turn _ => ?own⟩
  case nothing =>
    obtain ⟨frame, inbound, -⟩ := inboundFrameEvent_arbitrate f (arbitrate_noCandidate idle order queue)
    exact ⟨frame, inbound⟩
  case pass =>
    have candidate := InboundUnit.passCandidate_complete order slot
    obtain ⟨frame, inbound, relay⟩ := inboundFrameEvent_arbitrate f (arbitrate_pass idle candidate turn)
    refine ⟨frame, relay.trans relayKept, inbound.trans ?_⟩
    have tail : v.inbound.order.tail = ks := by rw [order, List.tail_cons]
    rw [← tail]
    rfl
  case own =>
    obtain ⟨frame, inbound, relay⟩ := inboundFrameEvent_arbitrate f (arbitrate_own idle queue turn)
    refine ⟨frame, inbound, fun p link box => relay.trans ?_,
      fun link => relay.trans ((startOwn_relay link v).trans relayKept)⟩
    rw [← relayKept] at box ⊢
    exact startOwn_relay_queued link box

/-! ### Reception leaves a message that is being sent (R137, R139, R140) -/

section

variable {s : State} {k : Fin 2} {m : Message}

theorem InboundUnit.setSlot_ne {u : InboundUnit} {j : Fin 2} (apart : j ≠ k) (x : PassSlot) :
    (u.setSlot j x).slots[k] = u.slots[k] :=
  Vector.getElem_set_ne j.isLt k.isLt (Fin.val_ne_of_ne apart)

theorem passCompletion_otherSlot {j : Fin 2} (apart : j ≠ k) (bytes : List Byte) (s : State) :
    (passCompletion j bytes s).inbound.slots[k] = s.inbound.slots[k] := by
  unfold passCompletion
  simp only
  split <;> exact InboundUnit.setSlot_ne apart _

/-- R139: a message begins in a FREE slot, so a slot in SENDING is another one. -/
theorem InboundUnit.freeSlot_ne_sending {u : InboundUnit} {j : Fin 2} (free : u.freeSlot = some j)
    (sending : u.slots[k] = .sending m) : j ≠ k := by
  rintro rfl
  rw [InboundUnit.freeSlot_some free] at sending
  cases sending

theorem beginPass_sending (sending : s.inbound.slots[k] = .sending m) (only : Bool) (c : Chunk) :
    (beginPass only c s).inbound.slots[k] = .sending m := by
  unfold beginPass
  split
  · exact sending
  · rename_i j _ free
    exact (passCompletion_otherSlot (InboundUnit.freeSlot_ne_sending free sending) _ s).trans sending
  · exact sending
  · rename_i j _ free
    exact (InboundUnit.setSlot_ne (InboundUnit.freeSlot_ne_sending free sending) _).trans sending
  · exact sending

theorem inboundIdle_sending (sending : s.inbound.slots[k] = .sending m) (c : Chunk) :
    (inboundIdle c s).inbound.slots[k] = .sending m := by
  unfold inboundIdle
  split
  · exact sending
  · exact beginPass_sending sending _ c
  · exact beginPass_sending sending _ c
  · exact sending
  · exact sending

/-- A received chunk leaves a slot in SENDING that the receiver does not fill. -/
theorem inboundReceive_sending (sending : s.inbound.slots[k] = .sending m) (unfilled : ¬s.inbound.fills k) (c : Chunk) :
    (inboundReceive c s).inbound.slots[k] = .sending m := by
  cases rx : s.inbound.rx with
  | idle =>
    rw [inboundReceive_idle rx]
    exact inboundIdle_sending sending c
  | discarding =>
    obtain h | h | h := inboundReceive_discarding_cases rx c <;> rw [h]
    · exact sending
    · exact sending
    · exact inboundIdle_sending (s := { s with inbound := { s.inbound with rx := .idle } }) sending c
  | receiving j received expected =>
    have apart : j ≠ k := by
      rintro rfl
      exact unfilled ⟨received, expected, rx⟩
    have given : (inboundError .idle (s.inbound.slots.set j .free) s).inbound.slots[k] = .sending m :=
      (InboundUnit.setSlot_ne apart .free).trans sending
    obtain ⟨bytes, n, h⟩ | ⟨bytes, h⟩ | h | h := inboundReceive_receiving_cases rx c <;> rw [h]
    · exact (InboundUnit.setSlot_ne apart (.receiving bytes)).trans sending
    · exact (passCompletion_otherSlot apart bytes _).trans sending
    · exact given
    · exact inboundIdle_sending given c

end

/-- R148: the message of an emission in progress is the same when the arbiter decides. -/
theorem emits_handedOn {s : State} {e : Emission} {m : Message} (emits : Emits s.inbound e m)
    (consistent : PassBufferConsistent s) (received : Option Chunk) :
    Emits (handedOn received s).inbound e m := by
  obtain ⟨⟨fits, -⟩, -⟩ := passBufferConsistent_iff.1 consistent
  cases source : e.source with
  | slot k =>
    rw [emits_slot source] at emits ⊢
    have fit := fits k
    rw [emits, PassSlot.fits_sending] at fit
    obtain ⟨unfilled, -⟩ := fit
    cases received with
    | none => exact emits
    | some c => exact inboundReceive_sending emits unfilled c
  | ownQueue =>
    rw [emits_own source] at emits ⊢
    rwa [handedOn_queue]

/-- Settles O47: the message of the emission is still there when the arbiter decides (`emits_handedOn`), which places its
next chunk (`arbitrate_places`) or none (`arbitrate_placed`). -/
theorem emissionGoesOnInEveryFrame : Obligations.EmissionGoesOnInEveryFrame := by
  unfold Obligations.EmissionGoesOnInEveryFrame
  intro f received s e m consistent emission emits
  have progress := (handedOn_emission received s).trans emission
  have message := emitted_of_emits (emits_handedOn emits consistent received)
  have queueKept := handedOn_queue received s
  have relayKept := handedOn_relay received s
  obtain more | all := Nat.lt_or_ge e.placed m.chunks
  · obtain ⟨⟨g, sent, chunk⟩, inbound, relay⟩ :=
      inboundFrameEvent_arbitrate f (arbitrate_places progress message more)
    refine ⟨g, sent, by rw [inbound]; exact queueKept, relay.trans relayKept,
      fun _ => ⟨chunk, by rw [inbound]⟩, fun all => absurd more (Nat.not_lt.2 all)⟩
  · obtain ⟨⟨g, sent, chunk⟩, inbound, relay⟩ :=
      inboundFrameEvent_arbitrate f (arbitrate_placed progress message all)
    refine ⟨g, sent, by rw [inbound]; exact queueKept, relay.trans relayKept,
      fun more => absurd more (Nat.not_lt.2 all), fun _ => ⟨chunk, by rw [inbound]; exact progress⟩⟩

end Sys2Proof.Machine
end

section
/-! PROOFS. The building of a NOTICE: its conditions, its items and what it leaves pending (R150 to R153). -/

namespace Sys2Proof.Machine

open Sys2Proof.Claims

/-! ### The conditions of a build (R153) -/

/-- A kind is in the pending set when it has a detail. -/
theorem PendingNotices.kinds_eq_isSome (n : PendingNotices) {kind : Nat} (h : kind < 10) :
    n.kinds.getLsbD kind = (noticeDetail n kind).isSome := by
  rw [n.kinds_getLsbD kind h]
  interval_cases kind <;> simp [noticeDetail]

/-- A kind that is both pending and enabled. -/
theorem PendingNotices.kinds_and_ne_zero (n : PendingNotices) (enable : BitVec 10) :
    (n.kinds &&& enable != 0) = true ↔
      ∃ kind < 10, (noticeDetail n kind).isSome = true ∧ enable.getLsbD kind = true := by
  rw [and_ne_zero_iff]
  exact exists_congr fun kind => and_congr_right fun h => by rw [n.kinds_eq_isSome h]

theorem State.noticeDue_iff (s : State) :
    s.noticeDue = true ↔ 1 ≤ s.executor.address.toNat ∧ s.executor.address.toNat ≤ 62 ∧
      (∃ kind < 10, (noticeDetail s.notices kind).isSome = true ∧ s.executor.noticeEnable.getLsbD kind = true) ∧
      ∀ x ∈ s.inbound.queue, x.message.kind ≠ 0x81 := by
  rw [← s.notices.kinds_and_ne_zero]
  simp only [State.noticeDue, Bool.and_eq_true, decide_eq_true_eq, List.all_eq_true, Bool.not_eq_true',
    OutEntry.isNotice, beq_eq_false_iff_ne, and_assoc]
  rfl

/-! ### The items of a NOTICE (R153) -/

/-- The item of a kind, when the kind is pending and enabled. -/
def PendingNotices.item (n : PendingNotices) (enable : BitVec 10) (kind : Nat) : Option (List Byte) :=
  if enable.getLsbD kind then (noticeDetail n kind).map fun detail => byteOf kind :: detail else none

theorem noticeItem_eq_toList (enable : BitVec 10) (kind : Nat) (detail : Option (List Byte)) :
    noticeItem enable kind detail =
      (if enable.getLsbD kind then detail.map fun bytes => byteOf kind :: bytes else none).toList := by
  cases detail <;> simp [noticeItem, apply_ite Option.toList]

theorem Addressing.code_eq (a : Addressing) : a.code = if a = .individual then 0x00 else 0x01 := by
  cases a <;> rfl

/-- The items stand in the order of the kinds. -/
theorem PendingNotices.items_eq (n : PendingNotices) (enable : BitVec 10) :
    n.items enable = (List.range 10).filterMap (n.item enable) := by
  have kinds : List.range 10 = [0, 1, 2, 3, 4, 5, 6, 7, 8, 9] := rfl
  simp only [PendingNotices.items, noticeItem_eq_toList, Addressing.code_eq]
  rw [kinds, List.filterMap_eq_flatMap_toList]
  simp only [List.flatMap_cons, List.flatMap_nil, List.append_nil, List.append_assoc]
  rfl

/-! ### The build (R151 to R153) -/

theorem exec_noticeBuild (s : State) : exec .noticeBuild s = .next (buildNotice s) := by
  rfl

/-- Settles O49: the conditions by `State.noticeDue_iff`, and the items by `PendingNotices.items_eq`. -/
theorem noticeBuildCarriesEnabledKinds : Obligations.NoticeBuildCarriesEnabledKinds := by
  unfold Obligations.NoticeBuildCarriesEnabledKinds
  intro s enabled due items
  rw [exec_noticeBuild, buildNotice]
  refine ⟨fun h => ⟨s.noticeMessage, rfl, rfl, rfl, rfl, ?payload, buildMessage_check .., ?built⟩, fun h => ?missing⟩
  case payload =>
    have carried : s.notices.items s.executor.noticeEnable = items := s.notices.items_eq _
    rw [← carried]
    rfl
  case built =>
    rw [if_pos (s.noticeDue_iff.2 h)]
    rfl
  case missing =>
    rw [if_neg (mt s.noticeDue_iff.1 h)]

end Sys2Proof.Machine
end

section
/-! PROOFS. What every command leaves as it is: the identity of the part (R166), and the commands that wait. -/

namespace Sys2Proof.Machine

/-- The same part, with the same commands waiting for it. -/
structure SamePart (s t : State) : Prop where
  identity : t.identity = s.identity
  pending : t.pending = s.pending

theorem SamePart.refl (s : State) : SamePart s s :=
  ⟨rfl, rfl⟩

theorem SamePart.trans {s t u : State} (h : SamePart s t) (g : SamePart t u) : SamePart s u :=
  ⟨g.identity.trans h.identity, g.pending.trans h.pending⟩

/-! ### The frames of the operations -/

theorem BoundaryFrame.samePart {s t : State} (f : BoundaryFrame s t) : SamePart s t := by
  obtain ⟨_, _, _, _, _, rfl⟩ := f
  exact ⟨rfl, rfl⟩

theorem ReceptionFrame.samePart {s t : State} (f : ReceptionFrame s t) : SamePart s t := by
  obtain ⟨_, _, _, _, _, _, rfl⟩ := f
  exact ⟨rfl, rfl⟩

theorem OwnFrame.samePart {r : Request} {s t : State} (f : OwnFrame r s t) : SamePart s t := by
  obtain ⟨_, _, _, _, _, _, _, _, _, _, _, _, _, _, rfl, -⟩ := f
  exact ⟨rfl, rfl⟩

theorem slotEffects_samePart (plan : Plan) (slots : Slots) (s : State) : SamePart s (slotEffects plan slots s) := by
  obtain ⟨_, _, -, e⟩ := slotEffects_frame plan slots s
  rw [e]
  exact ⟨rfl, rfl⟩

theorem assembleChunk_samePart (c : Chunk) (s : State) : SamePart s (assembleChunk c s) := by
  obtain ⟨_, _, e, -⟩ := assembleChunk_frame c s
  rw [e]
  exact ⟨rfl, rfl⟩

theorem arbitrate_samePart (s : State) : SamePart s (arbitrate s).2 := by
  obtain ⟨_, _, _, _, _, e⟩ := arbitrate_frame s
  rw [e]
  exact ⟨rfl, rfl⟩

/-! ### The resets (R104, R105) -/

theorem nodeResetState_samePart (s : State) : SamePart s (nodeResetState s) :=
  ⟨rfl, rfl⟩

/-- R104: the end of an emission applies a node reset at most. -/
theorem emissionReport_samePart (c : Chunk) (s : State) : SamePart s (emissionReport c s) := by
  obtain ⟨_, _, _, e⟩ | ⟨-, _, e⟩ := emissionReport_cases c s <;> rw [e] <;> exact ⟨rfl, rfl⟩

/-! ### The notices, the relay boxes and the requests -/

theorem buildNotice_samePart (s : State) : SamePart s (buildNotice s) := by
  unfold buildNotice
  split <;> exact ⟨rfl, rfl⟩

theorem queueRelayIn_samePart (s : State) : SamePart s (queueRelayIn s) := by
  unfold queueRelayIn
  split
  · split <;> exact ⟨rfl, rfl⟩
  · exact .refl s

theorem localReadOutward_samePart (a : List Byte) (s : State) : SamePart s (localReadOutward a s).1 := by
  unfold localReadOutward
  split <;> exact ⟨rfl, rfl⟩

theorem localWithdrawInward_samePart (a : List Byte) (s : State) : SamePart s (localWithdrawInward a s).1 := by
  unfold localWithdrawInward
  split <;> exact ⟨rfl, rfl⟩

theorem answer_samePart (source : Byte) (r : Request) (status : Status) (data : List Byte) (s : State) :
    SamePart s (answer source r status data s) := by
  obtain ⟨-, e⟩ | ⟨-, _, -, e⟩ := answer_cases source r status data s <;> rw [e]
  · exact .refl s
  · exact ⟨rfl, rfl⟩

/-- A refusal is answered alone, and the effect of a request keeps to its frame. -/
theorem execute_samePart (k : RequestKind) {r : Request} (hk : readKind r.kind = some k) (s : State) :
    SamePart s (execute k k.own r s) := by
  obtain ⟨_, e⟩ | ⟨_, _, hg, ho, e⟩ := execute_cases k k.own r s <;> rw [e]
  · exact answer_samePart ..
  · exact (own_frame k hk hg ho).samePart.trans (answer_samePart ..)

theorem executeResetNode_samePart (r : Request) (s : State) : SamePart s (executeResetNode r s) := by
  unfold executeResetNode
  split
  · exact answer_samePart ..
  · exact nodeResetState_samePart s
  · unfold placeReply
    simp only
    split <;> exact ⟨rfl, rfl⟩

theorem answerFromStore_samePart (r : Request) (s : State) : SamePart s (answerFromStore r s) := by
  unfold answerFromStore
  split <;> exact ⟨rfl, rfl⟩

theorem State.removed_samePart (s : State) (rest : List Request) : SamePart s (s.removed rest) :=
  ⟨rfl, rfl⟩

/-! ### The commands (O2) -/

/-- R166: every operation that the commands are made of leaves the part what it was. -/
theorem samePart_keptByOperations (start : State) : KeptByOperations (SamePart start) where
  outside _ _ _ _ _ _ _ _ h := h.trans ⟨rfl, rfl⟩
  deviceReset _ h := h.trans ⟨rfl, rfl⟩
  nodeReset s h := h.trans (nodeResetState_samePart s)
  changeover n s h := h.trans (changeoverCheck_frame n s).samePart
  refresh s h := h.trans (refreshCompletion_frame s).samePart
  relayBoundary n s h := h.trans (relayBoundary_frame n s).samePart
  exchange _ h := h.trans ⟨rfl, rfl⟩
  slots plan slots s h := h.trans (slotEffects_samePart plan slots s)
  assemble c s h := h.trans (assembleChunk_samePart c s)
  select _ _ h := h.trans ⟨rfl, rfl⟩
  receive c s h := h.trans (inboundReceive_frame c s).samePart
  arbitrate s h := h.trans (arbitrate_samePart s)
  tailMiss _ h := h.trans ⟨rfl, rfl⟩
  word _ _ _ h := h.trans ⟨rfl, rfl⟩
  report c s h := h.trans (emissionReport_samePart c s)
  notice s h := h.trans (buildNotice_samePart s)
  relayIn s h := h.trans (queueRelayIn_samePart s)
  readOutward s h := h.trans (localReadOutward_samePart [] s)
  postInward _ _ h _ _ _ := h.trans ⟨rfl, rfl⟩
  withdrawInward s h := h.trans (localWithdrawInward_samePart [] s)
  waiting _ h _ := h.trans ⟨rfl, rfl⟩
  request k s _ rest h _ hk _ := h.trans ((s.removed_samePart rest).trans (execute_samePart k hk _))
  resetNode s r rest h _ := h.trans ((s.removed_samePart rest).trans (executeResetNode_samePart r _))
  unknownKind s _ rest h _ := h.trans ((s.removed_samePart rest).trans (answer_samePart ..))
  stored s r rest h _ _ := h.trans ((s.removed_samePart rest).trans (answerFromStore_samePart r _))

/-- Settles O2, by the induction over the operations (`KeptByOperations.exec`) from the state before the command. -/
theorem everyCommandKeepsIdentityAndQueue : Obligations.EveryCommandKeepsIdentityAndQueue := by
  unfold Obligations.EveryCommandKeepsIdentityAndQueue
  intro c s
  obtain ⟨t, next, same⟩ := (samePart_keptByOperations s).exec c (.refl s)
  exact ⟨t, next, same.identity, same.pending⟩

end Sys2Proof.Machine
end

section
/-! PROOFS. The ROLL-CALL RETURN that passes: its hop count, the node's record and its flags (R159 to R161). -/

namespace Sys2Proof.Machine

open Sys2Proof.Claims

/-! ### Which returns pass (R159) -/

theorem State.passThrough_return (s : State) {m : Message} (kind : m.kind = 0x82)
    (good : returnWellFormed m.payload = true) :
    s.passThrough m = some (Message.sealed { m with payload := s.appendedPayload m.payload }) := by
  rw [State.passThrough, if_pos (show m.kind = kindRollCallReturn from kind), if_pos good]

theorem State.passThrough_malformed (s : State) {m : Message} (kind : m.kind = 0x82)
    (bad : ¬returnWellFormed m.payload = true) : s.passThrough m = none := by
  rw [State.passThrough, if_pos (show m.kind = kindRollCallReturn from kind), if_neg bad]

/-- R159: a return has at least its four bytes before the records. -/
theorem length_of_returnWellFormed {payload : List Byte} (h : returnWellFormed payload = true) :
    4 ≤ payload.length := by
  simp only [returnWellFormed, Bool.and_eq_true, beq_iff_eq] at h
  omega

/-! ### The fields of a return -/

/-- The hop count of a return, raised by one. -/
theorem byteOf_succ (b : Byte) : byteOf (b.toNat + 1) = b + 1 := by
  apply BitVec.eq_of_toNat_eq
  simp [byteOf]

/-- R161: the scope ALL admits the record of every node, and UNASSIGNED that of a node without an address. -/
theorem State.scopeAdmits_eq_true (s : State) (scope : Byte) :
    s.scopeAdmits scope = true ↔ scope = 0x00 ∨ (scope = 0x01 ∧ s.executor.address = 0) := by
  simp [State.scopeAdmits, scopeAll, scopeUnassigned, State.assigned]

/-- The four bytes of a return before its records. -/
theorem return_fields (scope hop count flags : Byte) (records : List Byte) :
    let payload := [scope, hop, count, flags] ++ records
    byteAt payload 0 = scope ∧ byteAt payload 1 = hop ∧ byteAt payload 2 = count ∧ byteAt payload 3 = flags ∧
      payload.drop 4 = records :=
  ⟨rfl, rfl, rfl, rfl, rfl⟩

section

variable {s : State} {scope hop count flags : Byte} {records : List Byte}

theorem returnWellFormed_iff :
    returnWellFormed ([scope, hop, count, flags] ++ records) = true ↔
      scope.toNat ≤ 2 ∧ 1 ≤ hop.toNat ∧ hop.toNat ≤ 63 ∧ count.toNat ≤ 12 ∧ records.length = 9 * count.toNat := by
  obtain ⟨first, second, third, -⟩ := return_fields scope hop count flags records
  have length : ([scope, hop, count, flags] ++ records).length = 4 + records.length := by
    rw [List.length_append]
    rfl
  rw [returnWellFormed, first, second, third, length]
  simp only [Bool.and_eq_true, decide_eq_true_eq, beq_iff_eq, Nat.add_left_cancel_iff, and_assoc]

/-! ### What the node makes of a return (R160, R161) -/

/-- A well-formed return after this node: at the hop count of 62 and above it is marked OVERLONG (bit 1), and below it
takes the record of a node that its scope admits, where twelve records already held make it TRUNCATED (bit 0). -/
theorem State.appendedPayload_eq (most : hop.toNat ≤ 63) :
    s.appendedPayload ([scope, hop, count, flags] ++ records) =
      if 62 ≤ hop.toNat then [scope, 63, count, flags ||| 0x02] ++ records
      else if s.scopeAdmits scope then
        if count.toNat = 12 then [scope, hop + 1, 12, flags ||| 0x01] ++ records.drop 9 ++ ownRecord s (hop + 1)
        else [scope, hop + 1, count + 1, flags] ++ records ++ ownRecord s (hop + 1)
      else [scope, hop + 1, count, flags] ++ records := by
  obtain ⟨first, second, third, fourth, behind⟩ := return_fields scope hop count flags records
  rw [State.appendedPayload, first, second, third, fourth, behind]
  simp only [byteOf_byte, byteOf_succ, rollCallRecord_eq]
  by_cases overlong : 62 ≤ hop.toNat
  · rw [if_pos overlong]
    obtain below | last : hop.toNat + 1 = 63 ∨ hop.toNat = 63 := by omega
    · rw [if_neg (by omega), if_pos below]
    · rw [if_pos last]
  · rw [if_neg overlong, if_neg (by omega), if_neg (by omega)]

end

/-- Settles O48: which returns pass by `returnWellFormed_iff`, and what becomes of one by `State.appendedPayload_eq`. -/
theorem rollCallAppendCountsAndRecords : Obligations.RollCallAppendCountsAndRecords := by
  unfold Obligations.RollCallAppendCountsAndRecords
  intro s m kind admits
  refine ⟨fun scope hop count flags records payload valid least most few whole => ?wellFormed,
    fun scope hop count flags records payload wrong => ?malformed, fun short => ?short⟩
  case wellFormed =>
    have good : returnWellFormed m.payload = true :=
      payload ▸ returnWellFormed_iff.2 ⟨valid, least, most, few, whole⟩
    have joins : s.scopeAdmits scope = true ↔ admits scope := s.scopeAdmits_eq_true scope
    refine ⟨_, s.passThrough_return kind good, ?_⟩
    rw [payload, State.appendedPayload_eq most]
    refine ⟨fun overlong => if_pos overlong, fun below apart => ?carried, fun below joined room => ?recorded,
      fun below joined full => ?truncated⟩ <;> rw [if_neg (Nat.not_le.2 below)]
    case carried => rw [if_neg (mt joins.1 apart)]
    case recorded => rw [if_pos (joins.2 joined), if_neg room.ne]
    case truncated => rw [if_pos (joins.2 joined), if_pos full]
  case malformed =>
    refine s.passThrough_malformed kind ?_
    rw [payload, returnWellFormed_iff]
    omega
  case short =>
    exact s.passThrough_malformed kind fun good => Nat.not_le.2 short (length_of_returnWellFormed good)

end Sys2Proof.Machine
end

section
/-! PROOFS. The device reset (R176, R185), and the relay boxes at a boundary and in the queuing of a RELAY IN (R169,
R172). -/

namespace Sys2Proof.Machine

open Sys2Proof.Claims

/-! ### The device reset -/

/-- R185: a device reset leaves no transaction in progress, and bars the next one where LSEL is asserted. -/
theorem Transaction.afterDeviceReset_of_ne_closed {x : Transaction} (h : x ≠ .closed) :
    x.afterDeviceReset = .barred := by
  cases x with
  | closed => exact absurd rfl h
  | collecting _ => rfl
  | responding _ _ => rfl
  | barred => rfl

/-- R45: every entry of the plans of a reset bank is PASS with channel number 0. -/
theorem Bank.reset_plan (d : Direction) (j : Fin 32) :
    (Bank.reset.plan d)[j] = { action := .pass, channel := 0 } := by
  cases d <;> exact Vector.getElem_replicate _

/-- R108: after a device reset every notice kind is enabled. -/
theorem Executor.reset_noticeEnable {kind : Nat} (h : kind < 10) :
    Executor.reset.noticeEnable.getLsbD kind = true :=
  BitVec.getLsbD_allOnes.trans (decide_eq_true h)

/-- Settles O3: the reset block by block, and the transaction by whether LSEL was asserted. -/
theorem deviceResetClearsEveryBlock : Obligations.DeviceResetClearsEveryBlock := by
  unfold Obligations.DeviceResetClearsEveryBlock
  intro s
  refine ⟨deviceResetState s, rfl, rfl, rfl, rfl, ?ports, rfl, fun d j => ⟨Bank.reset_plan d j, Bank.reset_plan d j⟩,
    rfl, rfl, rfl, rfl, rfl, rfl, fun k => ⟨Vector.getElem_replicate _, Vector.getElem_replicate _⟩, rfl, rfl, rfl,
    ⟨rfl, rfl, rfl, rfl⟩, rfl, rfl, rfl, rfl, fun _ => Executor.reset_noticeEnable,
    fun _ => Vector.getElem_replicate _, rfl, rfl, rfl, rfl, rfl, rfl, rfl, PendingNotices.reset_kinds, rfl, rfl, rfl,
    rfl, rfl, ?lint, rfl, fun closed => congrArg Transaction.afterDeviceReset closed,
    Transaction.afterDeviceReset_of_ne_closed⟩
  case ports =>
    rintro p (rfl | rfl) <;> exact ⟨rfl, rfl, rfl, rfl, rfl, rfl⟩
  case lint =>
    show (0#7 &&& 0#7 != 0#7) = false
    decide

/-! ### The outward box at a boundary (R169) -/

section

variable {s : State} {box : OutwardMessage} (n : Superframe)

theorem relayBoundary_empty (empty : s.relay.outward = none) : relayBoundary n s = s := by
  rw [relayBoundary, empty]

theorem relayBoundary_untimed (held : s.relay.outward = some box) (untimed : box.countdown = none) :
    relayBoundary n s = s := by
  simp only [relayBoundary, held, untimed]

theorem relayBoundary_counts {c : Byte} (held : s.relay.outward = some box) (timed : box.countdown = some c)
    (more : 2 ≤ c.toNat) :
    relayBoundary n s =
      { s with relay := { s.relay with outward := some { box with countdown := some (c - 1) } } } := by
  simp only [relayBoundary, held, timed]
  exact if_pos more

/-- R169: at 1 the message expires, with its notice and its flag. -/
theorem relayBoundary_expires (held : s.relay.outward = some box) (last : box.countdown = some 1) :
    relayBoundary n s = flagged
      { s with
        relay := { s.relay with outward := none }
        notices := { s.notices with
          relayExpired := some { superframe := n, length := BitVec.ofNat 8 box.payload.length } } }
      .outwardExpired := by
  simp only [relayBoundary, held, last]
  rfl

end

theorem exec_relayExpiry (s : State) :
    exec .relayExpiry s = .next (relayBoundary s.timing.number.superframe s) := by
  rfl

/-- Settles O51: the boundary action by the outward box and its countdown. -/
theorem outwardMessageCountsDownAndExpires : Obligations.OutwardMessageCountsDownAndExpires := by
  unfold Obligations.OutwardMessageCountsDownAndExpires
  intro s
  rw [exec_relayExpiry]
  refine ⟨fun empty => ?_, fun box held => ⟨fun untimed => ?_, fun c timed more => ?_, fun last => ?_⟩⟩
  · rw [relayBoundary_empty _ empty]
  · rw [relayBoundary_untimed _ held untimed]
  · rw [relayBoundary_counts _ held timed more]
  · rw [relayBoundary_expires _ held last]

/-! ### The queuing of a RELAY IN (R172) -/

theorem exec_relayInQueuing (s : State) : exec .relayInQueuing s = .next (queueRelayIn s) := by
  rfl

section

variable {s : State} {p : List Byte}

/-- R172: with an address and room, a POSTED message goes into the outgoing queue under the next number. -/
theorem queueRelayIn_posted (posted : s.relay.inward = .posted p) (assigned : 1 ≤ s.executor.address.toNat)
    (valid : s.executor.address.toNat ≤ 62) (room : s.nonNotices < 5) :
    queueRelayIn s =
      { s.enqueue (s.relayInMessage p) .inwardBox with
        relay := { s.relay with inward := .queued p, relayInNumber := nextNumber s.relay.relayInNumber } } := by
  simp only [queueRelayIn, posted]
  exact if_pos ⟨assigned, valid, s.hasRoom_iff.2 room⟩

/-- R172: without an address or without room, it stays POSTED. -/
theorem queueRelayIn_stays (posted : s.relay.inward = .posted p)
    (barred : s.executor.address = 0 ∨ 5 ≤ s.nonNotices) : queueRelayIn s = s := by
  simp only [queueRelayIn, posted]
  refine if_neg fun ⟨assigned, _, room⟩ => ?_
  obtain unassigned | full := barred
  · rw [unassigned] at assigned
    exact absurd assigned (by decide)
  · exact absurd (s.hasRoom_iff.1 room) (Nat.not_lt.2 full)

end

/-- Settles O50: the message is the RELAY IN of the relay unit, queued or not by the address and the room. -/
theorem postedMessageIsQueued : Obligations.PostedMessageIsQueued := by
  unfold Obligations.PostedMessageIsQueued
  intro s p posted
  rw [exec_relayInQueuing]
  refine ⟨fun assigned valid room =>
    ⟨s.relayInMessage p, rfl, rfl, rfl, rfl, rfl, buildMessage_check .., ?queued⟩, fun barred => ?stays⟩
  case queued =>
    rw [queueRelayIn_posted posted assigned valid room]
    rfl
  case stays =>
    rw [queueRelayIn_stays posted barred]

end Sys2Proof.Machine
end

section
/-! PROOFS. The transactions of the local control port: which stretch belongs to a row, what one byte does, and a
stretch as its parts one after another (R178, R179, R185). -/

namespace Sys2Proof.Machine

open Sys2Proof.Claims

/-! ### Command bytes (R179) -/

@[simp] theorem readLocalCommand_code (c : LocalCommand) : readLocalCommand c.code = some c := by
  cases c <;> rfl

/-- R179: 00H and 0AH to FFH name no command. -/
theorem readLocalCommand_eq_none {code : Byte} (h : code.toNat = 0 ∨ 10 ≤ code.toNat) :
    readLocalCommand code = none := by
  have codes (c : LocalCommand) : 1 ≤ c.code.toNat ∧ c.code.toNat ≤ 9 := by
    cases c <;> decide
  refine List.find?_eq_none.2 fun c _ named => ?_
  obtain rfl : c.code = code := eq_of_beq named
  have := codes c
  omega

/-! ### The rows of the local commands -/

/-- What the command of a row does at its taking, and its response. -/
def localEffect : Option LocalCommand → List Byte → State → State × List Byte
  | some .status => localStatus
  | some .readOutward => localReadOutward
  | some .postInward => localPostInward
  | some .withdrawInward => localWithdrawInward
  | some .readFlags => localReadFlags
  | some .clearFlags => localClearFlags
  | some .setMask => localSetMask
  | some .setLock => localLock true
  | some .clearLock => localLock false
  | none => localUnknown

theorem exec_localRow (row : Option LocalCommand) (bytes : List Byte) (edges : LselEdges) (s : State) :
    exec (localRow row bytes edges) s = .next (localTransfer row (localEffect row) bytes edges s) := by
  cases row with
  | none => rfl
  | some c => cases c <;> rfl

/-! ### LSEL before and after a stretch -/

/-- The node after what LSEL does before the bytes of a stretch. -/
def State.lselBefore (s : State) (asserted : Bool) : State :=
  if asserted then s.localSelect else s

/-- The node after what LSEL does behind the bytes of a stretch. -/
def State.lselAfter (s : State) (released : Bool) : State :=
  if released then s.withTransaction .closed else s

theorem State.localSelect_of_closed {s : State} (closed : s.port.transaction = .closed) :
    s.localSelect = inTransaction (.collecting []) s := by
  rw [State.localSelect, closed]
  rfl

theorem State.localSelect_of_ne_closed {s : State} (selected : s.port.transaction ≠ .closed) :
    s.localSelect = s := by
  unfold State.localSelect
  split
  · exact absurd ‹_› selected
  all_goals rfl

theorem State.lselBefore_of_ne_closed {s : State} (selected : s.port.transaction ≠ .closed) (asserted : Bool) :
    s.lselBefore asserted = s := by
  cases asserted with
  | false => rfl
  | true => exact State.localSelect_of_ne_closed selected

/-! ### Which stretch belongs to a row -/

theorem Transaction.belongs_iff (row : Option LocalCommand) (x : Transaction) (bytes : List Byte) :
    x.belongs row bytes = true ↔ ∀ code, x.command bytes = some code → readLocalCommand code = row := by
  unfold Transaction.belongs
  cases x.command bytes <;> simp

/-- The command byte of a stretch is the one of the transaction that it goes on with or begins. -/
theorem commandByte_iff (s : State) (bytes : List Byte) (edges : LselEdges) (code : Byte) :
    CommandByte s bytes edges code ↔ (s.lselBefore edges.asserted).port.transaction.command bytes = some code := by
  by_cases closed : s.port.transaction = .closed
  · cases asserted : edges.asserted with
    | false => simp [CommandByte, State.lselBefore, closed, asserted, Transaction.command]
    | true =>
      have begun : (s.lselBefore true).port.transaction = .collecting [] :=
        congrArg (fun t => t.port.transaction) (State.localSelect_of_closed closed)
      simp [CommandByte, closed, asserted, begun, Transaction.command, List.head?_eq_some_iff]
  · rw [State.lselBefore_of_ne_closed closed]
    cases x : s.port.transaction with
    | closed => exact absurd x closed
    | collecting before => simp only [CommandByte, x, Transaction.command, List.head?_eq_some_iff]
    | responding c rest => simp [CommandByte, x, Transaction.command, eq_comm]
    | barred => simp [CommandByte, x, Transaction.command]

theorem ofRow_iff (row : Option LocalCommand) (s : State) (bytes : List Byte) (edges : LselEdges) :
    OfRow row s bytes edges ↔ (s.lselBefore edges.asserted).port.transaction.belongs row bytes = true := by
  simp only [OfRow, commandByte_iff, Transaction.belongs_iff]

/-- A stretch that goes on with a transaction belongs to the row where its first part does. -/
theorem Transaction.command_append {x : Transaction} {before : List Byte} {code : Byte} (after : List Byte)
    (h : x.command before = some code) : x.command (before ++ after) = some code := by
  cases x with
  | closed => exact h
  | barred => exact h
  | responding _ _ => exact h
  | collecting first =>
    rw [Transaction.command, List.head?_eq_some_iff] at h ⊢
    obtain ⟨rest, h⟩ := h
    exact ⟨rest ++ after, by rw [← List.append_assoc, h, List.cons_append]⟩

/-! ### One byte (R178, R185) -/

section

variable {row : Option LocalCommand} {effect : List Byte → State → State × List Byte} {s : State} {b : Byte}

theorem shiftLocalByte_closed (h : s.port.transaction = .closed) : shiftLocalByte row effect b s = s := by
  rw [shiftLocalByte, h]

theorem shiftLocalByte_barred (h : s.port.transaction = .barred) :
    shiftLocalByte row effect b s = ldoCarried 0x00 s := by
  rw [shiftLocalByte, h]
  rfl

theorem shiftLocalByte_responding {code : Byte} {rest : List Byte}
    (h : s.port.transaction = .responding code rest) :
    shiftLocalByte row effect b s = inTransaction (.responding code rest.tail) (ldoCarried (rest.headD 0x00) s) := by
  rw [shiftLocalByte, h]
  rfl

section

variable {before arguments : List Byte} {code : Byte}

theorem shiftLocalByte_collects (h : s.port.transaction = .collecting before)
    (whole : before ++ [b] = code :: arguments) (more : argumentsComplete row arguments = false) :
    shiftLocalByte row effect b s = inTransaction (.collecting (before ++ [b])) (ldoCarried 0x00 s) := by
  simp only [shiftLocalByte, h, whole, List.tail_cons, more]
  rfl

theorem shiftLocalByte_takes (h : s.port.transaction = .collecting before)
    (whole : before ++ [b] = code :: arguments) (complete : argumentsComplete row arguments = true) :
    shiftLocalByte row effect b s =
      inTransaction (.responding code (effect arguments (ldoCarried 0x00 s)).2)
        (effect arguments (ldoCarried 0x00 s)).1 := by
  simp only [shiftLocalByte, h, whole, List.tail_cons, complete]
  rfl

end

/-- The byte shifted in is from then on one of the transaction's: the command byte of what follows stays the same. -/
theorem shiftLocalByte_command (after : List Byte) :
    (shiftLocalByte row effect b s).port.transaction.command after = s.port.transaction.command (b :: after) := by
  obtain ⟨h, e⟩ | ⟨h, e⟩ | ⟨_, _, h, e⟩ | ⟨before, h, -, e⟩ | ⟨before, h, -, e⟩ := shiftLocalByte_cases row effect b s
    <;> rw [e]
  · rw [h]
    rfl
  · rw [State.shiftOut_port, h]
    rfl
  · rw [State.withTransaction_transaction, h]
    rfl
  · rw [State.withTransaction_transaction, h, Transaction.command, Transaction.command, List.append_assoc,
      List.singleton_append]
  · rw [State.withTransaction_transaction, h]
    cases before <;> rfl

end

/-! ### A stretch of bytes -/

/-- The bytes of a stretch, shifted in one after another. -/
def shiftLocalBytes (row : Option LocalCommand) (effect : List Byte → State → State × List Byte) (bytes : List Byte)
    (s : State) : State :=
  bytes.foldl (fun t b => shiftLocalByte row effect b t) s

section

variable {row : Option LocalCommand} {effect : List Byte → State → State × List Byte} {s : State}

theorem shiftLocalBytes_append (before after : List Byte) :
    shiftLocalBytes row effect (before ++ after) s =
      shiftLocalBytes row effect after (shiftLocalBytes row effect before s) :=
  List.foldl_append

/-- With LSEL released no byte is shifted in. -/
theorem shiftLocalBytes_closed (h : s.port.transaction = .closed) (bytes : List Byte) :
    shiftLocalBytes row effect bytes s = s := by
  induction bytes with
  | nil => rfl
  | cons b bytes ih => exact (congrArg (shiftLocalBytes row effect bytes) (shiftLocalByte_closed h)).trans ih

theorem shiftLocalBytes_command (bytes after : List Byte) :
    (shiftLocalBytes row effect bytes s).port.transaction.command after =
      s.port.transaction.command (bytes ++ after) := by
  induction bytes generalizing s with
  | nil => rfl
  | cons b bytes ih => exact ih.trans (shiftLocalByte_command (bytes ++ after))

end

/-! ### What a row does (R178, R179) -/

section

variable {row : Option LocalCommand} {s : State}

theorem exec_localRow_of_ofRow {bytes : List Byte} {edges : LselEdges} (h : OfRow row s bytes edges) :
    exec (localRow row bytes edges) s =
      .next ((shiftLocalBytes row (localEffect row) bytes (s.lselBefore edges.asserted)).lselAfter edges.released) := by
  rw [exec_localRow]
  exact congrArg _ (if_pos ((ofRow_iff row s bytes edges).1 h))

/-- A stretch of another row's transaction changes nothing (notes/assumptions/22.md). -/
theorem exec_localRow_of_not_ofRow {bytes : List Byte} {edges : LselEdges} (h : ¬OfRow row s bytes edges) :
    exec (localRow row bytes edges) s = .next s := by
  rw [exec_localRow]
  exact congrArg _ (if_neg (mt (ofRow_iff row s bytes edges).2 h))

/-- One byte inside a transaction of the row's command. -/
theorem exec_localRow_byte {b : Byte} (h : OfRow row s [b] .inside) :
    exec (localRow row [b] .inside) s = .next (shiftLocalByte row (localEffect row) b s) :=
  exec_localRow_of_ofRow h

/-- A stretch of bytes does what its parts do one after another. -/
theorem exec_localRow_append {asserted released : Bool} {before after : List Byte}
    (h : OfRow row s (before ++ after) { asserted := asserted, released := released }) :
    ∃ t, exec (localRow row before { asserted := asserted, released := false }) s = .next t ∧
      exec (localRow row (before ++ after) { asserted := asserted, released := released }) s =
        exec (localRow row after { asserted := false, released := released }) t := by
  have whole := (Transaction.belongs_iff ..).1 ((ofRow_iff ..).1 h)
  have first : OfRow row s before { asserted := asserted, released := false } :=
    (ofRow_iff ..).2 ((Transaction.belongs_iff ..).2 fun code named =>
      whole code (Transaction.command_append after named))
  have rest : OfRow row (shiftLocalBytes row (localEffect row) before (s.lselBefore asserted)) after
      { asserted := false, released := released } :=
    (ofRow_iff ..).2 ((Transaction.belongs_iff ..).2 fun code named =>
      whole code ((shiftLocalBytes_command before after).symm.trans named))
  refine ⟨_, exec_localRow_of_ofRow first, ?_⟩
  rw [exec_localRow_of_ofRow h, shiftLocalBytes_append]
  exact (exec_localRow_of_ofRow rest).symm

/-! ### One byte of a row -/

section

variable {b : Byte} {before arguments : List Byte} {code : Byte}

/-- A byte of a transaction whose command byte is known belongs to the row of its command. -/
theorem ofRow_of_collecting (collecting : s.port.transaction = .collecting before)
    (whole : before ++ [b] = code :: arguments) (named : readLocalCommand code = row) : OfRow row s [b] .inside := by
  intro c command
  rw [CommandByte, collecting] at command
  obtain ⟨rest, first⟩ := command
  obtain ⟨rfl, -⟩ := List.cons.inj (whole.symm.trans first)
  exact named

theorem exec_localRow_collects (collecting : s.port.transaction = .collecting before)
    (whole : before ++ [b] = code :: arguments) (named : readLocalCommand code = row)
    (more : argumentsComplete row arguments = false) :
    exec (localRow row [b] .inside) s = .next (inTransaction (.collecting (before ++ [b])) (ldoCarried 0x00 s)) := by
  rw [exec_localRow_byte (ofRow_of_collecting collecting whole named), shiftLocalByte_collects collecting whole more]

/-- The command is taken at its last byte, and answered with its response. -/
theorem exec_localRow_takes {t : State} {response : List Byte} (collecting : s.port.transaction = .collecting before)
    (whole : before ++ [b] = code :: arguments) (named : readLocalCommand code = row)
    (complete : argumentsComplete row arguments = true)
    (effect : localEffect row arguments (ldoCarried 0x00 s) = (ldoCarried 0x00 t, response)) :
    exec (localRow row [b] .inside) s = .next (answered code response t) := by
  rw [exec_localRow_byte (ofRow_of_collecting collecting whole named), shiftLocalByte_takes collecting whole complete,
    effect]
  rfl

/-- A command that calls for no argument is taken at its command byte. -/
theorem exec_localRow_takes_code {c : LocalCommand} {t : State} {response : List Byte}
    (collecting : s.port.transaction = .collecting []) (complete : argumentsComplete (some c) [] = true)
    (effect : localEffect (some c) [] (ldoCarried 0x00 s) = (ldoCarried 0x00 t, response)) :
    exec (localRow (some c) [c.code] .inside) s = .next (answered c.code response t) :=
  exec_localRow_takes collecting rfl (readLocalCommand_code c) complete effect

theorem exec_localRow_responds {rest : List Byte} (responding : s.port.transaction = .responding code rest)
    (named : readLocalCommand code = row) :
    exec (localRow row [b] .inside) s =
      .next (inTransaction (.responding code rest.tail) (ldoCarried (rest.headD 0x00) s)) := by
  have ofRow : OfRow row s [b] .inside := by
    intro c command
    rw [CommandByte, responding] at command
    exact command ▸ named
  rw [exec_localRow_byte ofRow, shiftLocalByte_responding responding]

theorem exec_localRow_barred (barred : s.port.transaction = .barred) :
    exec (localRow row [b] .inside) s = .next (ldoCarried 0x00 s) := by
  have ofRow : OfRow row s [b] .inside := by
    intro c command
    rw [CommandByte, barred] at command
    exact command.elim
  rw [exec_localRow_byte ofRow, shiftLocalByte_barred barred]

end

/-! ### LSEL by itself -/

theorem exec_localRow_opening (closed : s.port.transaction = .closed) :
    exec (localRow row [] .opening) s = .next (inTransaction (.collecting []) s) := by
  have ofRow : OfRow row s [] .opening := by
    intro c command
    rw [CommandByte, closed] at command
    obtain ⟨-, _, impossible⟩ := command
    cases impossible
  rw [exec_localRow_of_ofRow ofRow, ← State.localSelect_of_closed closed]
  rfl

theorem exec_localRow_closing (h : OfRow row s [] .closing) :
    exec (localRow row [] .closing) s = .next (inTransaction .closed s) :=
  exec_localRow_of_ofRow h

theorem exec_localRow_released (closed : s.port.transaction = .closed) (bytes : List Byte) (released : Bool) :
    exec (localRow row bytes { asserted := false, released := released }) s = .next s := by
  have ofRow : OfRow row s bytes { asserted := false, released := released } := by
    intro c command
    rw [CommandByte, closed] at command
    obtain ⟨impossible, -⟩ := command
    cases impossible
  have still : s.withTransaction .closed = s := closed ▸ rfl
  rw [exec_localRow_of_ofRow ofRow]
  show Host.Outcome.next ((shiftLocalBytes row (localEffect row) bytes s).lselAfter released) = _
  rw [shiftLocalBytes_closed closed]
  cases released with
  | false => rfl
  | true => exact congrArg _ still

end

/-! ### The bytes that a command calls for (R171, R178) -/

/-- R171: a length from 1 to 120 calls for as many bytes. -/
theorem argumentsComplete_postInward {length : Byte} (payload : List Byte) (least : 1 ≤ length.toNat)
    (most : length.toNat ≤ 120) :
    argumentsComplete (some .postInward) (length :: payload) = decide (length.toNat ≤ payload.length) := by
  simp [argumentsComplete, least, most]

/-- R171: another length is refused at its byte. -/
theorem argumentsComplete_postInward_of_outside {length : Byte} (payload : List Byte)
    (outside : length.toNat = 0 ∨ 121 ≤ length.toNat) :
    argumentsComplete (some .postInward) (length :: payload) = true := by
  have refused : ¬((1 ≤ length.toNat && length.toNat ≤ 120) = true) := by
    rw [Bool.and_eq_true, decide_eq_true_eq, decide_eq_true_eq]
    omega
  exact if_neg refused

/-- R171: the last payload byte completes a POST INWARD. -/
theorem argumentsComplete_last {length : Byte} {payload : List Byte} (most : length.toNat ≤ 120)
    (whole : payload.length + 1 = length.toNat) (last : Byte) :
    argumentsComplete (some .postInward) (length :: (payload ++ [last])) = true := by
  rw [argumentsComplete_postInward _ (by omega) most, List.length_append, List.length_singleton, whole]
  exact decide_eq_true le_rfl

end Sys2Proof.Machine
end

section
/-! PROOFS. The commands of the local control port: the relay boxes, the status, the flags with LINT, and the channel
lock (R170, R171, R174, R179 to R184). -/

namespace Sys2Proof.Machine

open Sys2Proof.Claims

/-! ### The relay boxes (R170, R171, R174) -/

section

variable {s : State}

theorem localReadOutward_empty (empty : s.relay.outward = none) (arguments : List Byte) :
    localReadOutward arguments s = (s, [0x81]) := by
  rw [localReadOutward, empty]
  rfl

theorem localReadOutward_held {box : OutwardMessage} (held : s.relay.outward = some box) (arguments : List Byte) :
    localReadOutward arguments s =
      ({ s with
          relay := { s.relay with outward := none }
          notices := { s.notices with relayDelivered := some (BitVec.ofNat 8 box.payload.length) } },
        [0x80, BitVec.ofNat 8 box.payload.length] ++ box.payload) := by
  rw [localReadOutward, held]
  rfl

/-- R171: a length outside 1 to 120 is answered TOO LONG. -/
theorem localPostInward_outside {length : Byte} (outside : length.toNat = 0 ∨ 121 ≤ length.toNat)
    (payload : List Byte) : localPostInward (length :: payload) s = (s, [0x83]) := by
  refine if_neg (show ¬(1 ≤ length.toNat ∧ length.toNat ≤ 120) from ?_)
  omega

section

variable {length : Byte} {payload : List Byte}

/-- R171: with a length from 1 to 120 and its payload, the message is posted or answered BUSY. -/
theorem localPostInward_complete (most : length.toNat ≤ 120) (whole : payload.length + 1 = length.toNat) (last : Byte) :
    localPostInward (length :: (payload ++ [last])) s =
      if s.relay.inward = .empty then
        ({ s with relay := { s.relay with inward := .posted (payload ++ [last]) } }, [0x80])
      else (s, [0x82]) := by
  have all : (payload ++ [last]).take length.toNat = payload ++ [last] :=
    List.take_of_length_le (by rw [List.length_append, List.length_singleton, whole])
  refine (if_pos (show 1 ≤ length.toNat ∧ length.toNat ≤ 120 by omega)).trans ?_
  rw [show ((length :: (payload ++ [last])).drop 1).take (byteAt (length :: (payload ++ [last])) 0).toNat = _ from all]
  cases s.relay.inward with
  | empty => rfl
  | posted _ => rfl
  | queued _ => rfl
  | sending _ => rfl

end

/-- R174: the queued RELAY IN is the one entry of the inward box in the outgoing queue. -/
theorem InboundUnit.withdrawn_eq {u : InboundUnit} {before behind : List OutEntry} {x : OutEntry}
    (queue : u.queue = before ++ [x] ++ behind) (linked : x.link = .inwardBox)
    (others : ∀ y ∈ before ++ behind, y.link ≠ .inwardBox) : u.withdrawn = { u with queue := before ++ behind } := by
  have kept : (before ++ behind).filter (fun e => e.link != .inwardBox) = before ++ behind :=
    List.filter_eq_self.2 fun y member => bne_iff_ne.2 (others y member)
  have left : u.queue.filter (fun e => e.link != .inwardBox) = before ++ behind := by
    rw [queue, List.filter_append, List.filter_append, List.filter_singleton, linked, ← kept, List.filter_append]
    simp
  rw [InboundUnit.withdrawn, left]

theorem localWithdrawInward_empty (empty : s.relay.inward = .empty) (arguments : List Byte) :
    localWithdrawInward arguments s = (s, [0x81]) := by
  rw [localWithdrawInward, empty]
  rfl

theorem localWithdrawInward_posted {p : List Byte} (posted : s.relay.inward = .posted p) (arguments : List Byte) :
    localWithdrawInward arguments s = ({ s with relay := { s.relay with inward := .empty } }, [0x80]) := by
  rw [localWithdrawInward, posted]
  rfl

theorem localWithdrawInward_queued {p : List Byte} (queued : s.relay.inward = .queued p) (arguments : List Byte) :
    localWithdrawInward arguments s =
      ({ s with relay := { s.relay with inward := .empty }, inbound := s.inbound.withdrawn }, [0x80]) := by
  rw [localWithdrawInward, queued]
  rfl

theorem localWithdrawInward_sending {p : List Byte} (sending : s.relay.inward = .sending p) (arguments : List Byte) :
    localWithdrawInward arguments s = (s, [0x82]) := by
  rw [localWithdrawInward, sending]
  rfl

end

/-- Settles O52: each command is taken at its last byte (`exec_localRow_takes`), with its effect by the state of the
boxes. -/
theorem relayBoxCommands : Obligations.RelayBoxCommands := by
  unfold Obligations.RelayBoxCommands
  intro s
  refine ⟨fun selected => ⟨fun empty => ?readEmpty, fun box held => ?readHeld⟩,
    fun length selected outside => ?postOutside,
    fun length b payload selected most whole => ⟨fun empty => ?postEmpty, fun occupied => ?postOccupied⟩,
    fun selected => ⟨fun empty => ?withdrawEmpty, fun p posted => ?withdrawPosted,
      fun p before x behind queued queue linked others => ?withdrawQueued, fun p sending => ?withdrawSending⟩⟩
  case readEmpty =>
    exact exec_localRow_takes_code (c := .readOutward) selected rfl
      (localReadOutward_empty (s := ldoCarried 0x00 s) empty [])
  case readHeld =>
    exact exec_localRow_takes_code (c := .readOutward) selected rfl
      (localReadOutward_held (s := ldoCarried 0x00 s) held [])
  case postOutside =>
    exact exec_localRow_takes (row := some .postInward) (arguments := [length]) selected rfl rfl
      (argumentsComplete_postInward_of_outside [] outside) (localPostInward_outside (s := ldoCarried 0x00 s) outside [])
  case postEmpty =>
    exact exec_localRow_takes (row := some .postInward) selected rfl rfl (argumentsComplete_last most whole b)
      ((localPostInward_complete (s := ldoCarried 0x00 s) most whole b).trans (if_pos empty))
  case postOccupied =>
    exact exec_localRow_takes (row := some .postInward) selected rfl rfl (argumentsComplete_last most whole b)
      ((localPostInward_complete (s := ldoCarried 0x00 s) most whole b).trans (if_neg occupied))
  case withdrawEmpty =>
    exact exec_localRow_takes_code (c := .withdrawInward) selected rfl
      (localWithdrawInward_empty (s := ldoCarried 0x00 s) empty [])
  case withdrawPosted =>
    exact exec_localRow_takes_code (c := .withdrawInward) selected rfl
      (localWithdrawInward_posted (s := ldoCarried 0x00 s) posted [])
  case withdrawQueued =>
    refine exec_localRow_takes_code (c := .withdrawInward) selected rfl
      ((localWithdrawInward_queued (s := ldoCarried 0x00 s) queued []).trans ?_)
    rw [show (ldoCarried 0x00 s).inbound.withdrawn = _ from InboundUnit.withdrawn_eq queue linked others]
    rfl
  case withdrawSending =>
    exact exec_localRow_takes_code (c := .withdrawInward) selected rfl
      (localWithdrawInward_sending (s := ldoCarried 0x00 s) sending [])

/-! ### STATUS and READ FLAGS (R180, R182) -/

/-- R180: the length byte of the node picture, 00H for an EMPTY outward box. -/
def State.outwardLength (s : State) : Byte :=
  (s.relay.outward.map fun box => byteOf box.payload.length).getD 0

theorem State.nodePicture_eq (s : State) :
    s.nodePicture = sixBytes s.identity ++
      [s.executor.address, s.headPort.lock.code, s.tailPort.lock.code, if s.headLostSeen then 0x01 else 0x00,
        s.plan.state.code, if s.relay.outward = none then 0x00 else 0x01, s.outwardLength, s.relay.inward.code,
        if s.port.channelLock then 0x01 else 0x00] := by
  have held : flagByte s.relay.outward.isSome = if s.relay.outward = none then 0x00 else 0x01 := by
    cases s.relay.outward <;> rfl
  rw [State.nodePicture, held]
  rfl

/-- A local flag set fills its byte with a zero. -/
theorem flagSetByte_eq (x : BitVec 7) : flagSetByte x = 0#1 ++ x :=
  zeroExtend_eq_append (v := 1) x

/-- Settles O53: the reads at their taking (`exec_localRow_takes`), the single bytes by the transaction in progress, and
the stretches by `exec_localRow_append`. -/
theorem localReadsRespondAndChangeNothing : Obligations.LocalReadsRespondAndChangeNothing := by
  unfold Obligations.LocalReadsRespondAndChangeNothing
  refine ⟨fun s selected => ⟨⟨s.outwardLength, fun empty => ?empty, fun box held => ?held, ?status⟩, ?readFlags,
      fun code unnamed => ?unknown⟩,
    fun row s => ⟨fun closed => ⟨exec_localRow_opening closed, exec_localRow_released closed⟩, exec_localRow_closing,
      fun b => ⟨fun code rest => exec_localRow_responds, exec_localRow_barred, fun selected opens => ?opens,
        fun selected row least most => ?length, fun length payload selected row most more => ?payload⟩,
      fun bytes edges => exec_localRow_of_not_ofRow, fun asserted released before after => exec_localRow_append⟩⟩
  case empty =>
    rw [State.outwardLength, empty]
    rfl
  case held =>
    rw [State.outwardLength, held]
    rfl
  case status =>
    refine exec_localRow_takes_code (c := .status) selected rfl (Prod.ext rfl ?_)
    exact congrArg (resultOk :: ·) (ldoCarried 0x00 s).nodePicture_eq
  case readFlags =>
    refine exec_localRow_takes_code (c := .readFlags) selected rfl (Prod.ext rfl ?_)
    rw [← flagSetByte_eq, ← flagSetByte_eq]
    rfl
  case unknown =>
    exact exec_localRow_takes (row := none) selected rfl (readLocalCommand_eq_none unnamed) rfl rfl
  case opens =>
    obtain ⟨rfl, rfl⟩ | ⟨rfl, rfl⟩ | ⟨rfl, rfl⟩ := opens <;> exact exec_localRow_collects selected rfl rfl rfl
  case length =>
    subst row
    refine exec_localRow_collects selected rfl rfl ((argumentsComplete_postInward [] least most).trans ?_)
    exact decide_eq_false (Nat.not_le.2 least)
  case payload =>
    subst row
    refine exec_localRow_collects selected rfl rfl
      ((argumentsComplete_postInward (payload ++ [b]) (by omega) most).trans ?_)
    exact decide_eq_false (by simpa using more)

/-! ### The flags, their mask and LINT (R182, R183) -/

theorem readFlagSet_getLsbD (named : Byte) (f : LocalFlag) :
    (readFlagSet named).getLsbD f.bit = named.getLsbD f.bit := by
  simp [readFlagSet, f.bit_lt]

/-- R182: the flags without those that a byte names. -/
theorem flags_cleared_getLsbD (flags : BitVec 7) (named : Byte) (f : LocalFlag) :
    (flags &&& ~~~(readFlagSet named)).getLsbD f.bit = (flags.getLsbD f.bit && !named.getLsbD f.bit) := by
  rw [BitVec.getLsbD_and, BitVec.getLsbD_not, decide_eq_true f.bit_lt, Bool.true_and, readFlagSet_getLsbD]

/-- R183: LINT is asserted while a flag is set whose mask position is set. -/
theorem State.lint_iff (s : State) :
    s.lint = true ↔ ∃ f : LocalFlag, s.port.hasFlag f = true ∧ s.port.mask.getLsbD f.bit = true := by
  rw [State.lint, and_ne_zero_iff]
  constructor
  · rintro ⟨i, inside, both⟩
    obtain ⟨f, rfl⟩ := LocalFlag.exists_bit inside
    exact ⟨f, both⟩
  · rintro ⟨f, both⟩
    exact ⟨f.bit, f.bit_lt, both⟩

/-- Settles O54: each command is taken at its last byte (`exec_localRow_takes`), and LINT follows the state it leaves
(`State.lint_iff`). -/
theorem localWritesFlagsMaskAndLock : Obligations.LocalWritesFlagsMaskAndLock := by
  unfold Obligations.LocalWritesFlagsMaskAndLock
  intro s named
  refine ⟨fun selected => ⟨s.port.flags &&& ~~~(readFlagSet named), _, flags_cleared_getLsbD s.port.flags named, rfl,
      ?clear, State.lint_iff _⟩,
    fun selected => ⟨readFlagSet named, _, readFlagSet_getLsbD named, rfl, ?mask, State.lint_iff _⟩, s.lint_iff,
    fun selected => ⟨exec_localRow_takes_code (c := .setLock) selected rfl rfl,
      exec_localRow_takes_code (c := .clearLock) selected rfl rfl⟩⟩
  case clear =>
    rw [← flagSetByte_eq]
    exact exec_localRow_takes (row := some .clearFlags) selected rfl rfl rfl rfl
  case mask =>
    rw [← flagSetByte_eq]
    exact exec_localRow_takes (row := some .setMask) selected rfl rfl rfl rfl

end Sys2Proof.Machine
end

section
/-! PROOFS. One step, by what waits in the queue of commands (notes/assumptions/1.md). -/

namespace Sys2Proof.Machine

/-- The front command runs on the state that it has already left: the rest of the queue waits. -/
theorem step_of_pending_cons {s : State} {c : Instr} {rest : List Instr} (waiting : s.pending = c :: rest) :
    step s = exec c { s with pending := rest } := by
  rw [step, waiting]

theorem step_of_pending_nil {s : State} (empty : s.pending = []) : step s = .next s := by
  rw [step, empty]

/-- Settles O1, by the queue: a command in front (`step_of_pending_cons`), or none (`step_of_pending_nil`). -/
theorem stepRunsFrontCommand : Obligations.StepRunsFrontCommand := by
  unfold Obligations.StepRunsFrontCommand
  intro s
  exact ⟨fun _ _ waiting => step_of_pending_cons waiting, step_of_pending_nil⟩

end Sys2Proof.Machine
end
